-- ==== Sys2Proof/Word.lean ====
section
/-! DEFINITION. The word types of the SRB: every register and every memory word is 32 bits wide (00_scope.md R8), and a
word is held on the bus as four byte lanes (20_memory.md R83). -/

namespace Sys2Proof

/-- One byte lane of the bus (20_memory.md R83). -/
abbrev Byte := BitVec 8

/-- `u32`, also the word that holds an `f32` by its bit pattern (00_scope.md R8, R9). -/
abbrev Word := BitVec 32

end Sys2Proof
end

