-- ==== Sys2Proof/Syntax.lean ====
section
/-! DEFINITION. The syntax: the twelve commands of spec/opcode_table.json, the error codes of 60_exceptions.md R271, the
locations of the window that host programs name (30_encoding.md R120, R122), and the statements of a host program
(R120, R123). -/

namespace Sys2Proof

/-- One constructor per row of the opcode map (30_encoding.md R113). An operand is the unsigned value of its field
(R112): `ch` is CH, `imm` is IMM. -/
inductive Instr where
  | nop
  | reset
  | chainReset
  | designLowcut (imm : Nat)
  | designPeak
  | designHighcut (imm : Nat)
  | magAt
  | sweep
  | ingest (ch imm : Nat)
  | produce (ch : Nat)
  | pop (ch : Nat)
  | clear (ch : Nat)
  deriving DecidableEq, Repr

/-- The named error codes (60_exceptions.md R271). -/
inductive ErrCode where
  | none
  | illegalOpcode
  | reservedField
  | badChannel
  | badLength
  | badOrder
  | badRange
  | busError
  deriving DecidableEq, Repr

/-- The two analyzer channels (`NCH = 2`, 00_scope.md R6). -/
inductive Channel where
  | c0
  | c1
  deriving DecidableEq, Repr

/-- The 21 registers of the register table (10_state.md section 3; 90_conflicts.md C9). -/
inductive Reg where
  | id | version | cfg | ctrl | status | errcode | cmd | result | arg0 | arg1 | arg2
  | sampleRate | floorDb | respFloorDb | fmin | fmax | width | bypass | fqstat | dropcnt | binWidth
  deriving DecidableEq, Repr

/-- The five coefficient words of a section, in their order in the window (20_memory.md R81). -/
inductive CoefName where
  | b0 | b1 | b2 | a1 | a2
  deriving DecidableEq, Repr

/-- The buffers of the window (20_memory.md R81). -/
inductive Buf where
  | sb (c : Channel)
  | rw (c : Channel)
  | fout (c : Channel)
  | resp
  deriving DecidableEq, Repr

/-- What an aligned offset of the window names (20_memory.md R81). An index past a buffer's length is reserved (R84);
that check needs the build and is made where the location is used. -/
inductive Loc where
  | reg (r : Reg)
  | coef (i : Fin 9) (k : CoefName)
  | buf (b : Buf) (i : Nat)
  | reserved
  deriving DecidableEq, Repr

/-- A statement of the host program. `write` and `read` are bus accesses at a platform address (30_encoding.md R120;
a size other than 4 is a bus error, 20_memory.md R82); a label is the index of its statement (R123, ID-24).
`assertReset` and `releaseReset` drive the platform's reset input (70_reset_and_hazards.md R300; log 5). -/
inductive HostStmt where
  | write (addr size : Nat) (value : Word)
  | read (addr size : Nat)
  | bnz (target : Nat)
  | bz (target : Nat)
  | jmp (target : Nat)
  | halt
  | assertReset
  | releaseReset
  deriving DecidableEq, Repr

end Sys2Proof
end

