-- ==== Sys2Proof/WellFormed.lean ====
section
/-! DEFINITION. Which instructions fit their encoding: the assembler's only operand check (30_encoding.md R120: an order
or count above 0xFFFF, or a channel above 3, is an assembler error; the ranges `L ≤ N`, `1 ≤ o ≤ 4` and `c ≤ 1` are
checked by the block). -/

namespace Sys2Proof

/-- `IMM` is 16 bits wide (30_encoding.md R111). -/
def immFits (imm : Nat) : Bool := imm ≤ 0xFFFF

/-- `CH` is 2 bits wide (30_encoding.md R111). -/
def chFits (ch : Nat) : Bool := ch ≤ 3

/-- Every operand fits its field (30_encoding.md R120). -/
def Instr.wellFormed : Instr → Bool
  | .nop => true
  | .reset => true
  | .chainReset => true
  | .designLowcut imm => immFits imm
  | .designPeak => true
  | .designHighcut imm => immFits imm
  | .magAt => true
  | .sweep => true
  | .ingest ch imm => chFits ch && immFits imm
  | .produce ch => chFits ch
  | .pop ch => chFits ch
  | .clear ch => chFits ch

end Sys2Proof
end

