-- ==== Sys2Proof/Decode.lean ====
section
/-! DEFINITION. The decoder and the encoder of the command word `CMDW` (30_encoding.md R110 to R118). Decoding is total
on words and rejects by name; the two checks it makes are the first two of 40_command_execution.md R141. -/

namespace Sys2Proof

/-- The value of each error code in `ERRCODE[7:0]` (60_exceptions.md R271). -/
def ErrCode.code : ErrCode → Byte
  | .none => 0x00
  | .illegalOpcode => 0x01
  | .reservedField => 0x02
  | .badChannel => 0x03
  | .badLength => 0x04
  | .badOrder => 0x05
  | .badRange => 0x06
  | .busError => 0x07

/-- `OPC`, bits 7:0 (30_encoding.md R111). -/
def fieldOpc (v : Word) : Nat := (v.extractLsb' 0 8).toNat

/-- `CH`, bits 9:8 (30_encoding.md R111). -/
def fieldCh (v : Word) : Nat := (v.extractLsb' 8 2).toNat

/-- `RSV`, bits 15:10 (30_encoding.md R111). -/
def fieldRsv (v : Word) : Nat := (v.extractLsb' 10 6).toNat

/-- `IMM`, bits 31:16 (30_encoding.md R111). -/
def fieldImm (v : Word) : Nat := (v.extractLsb' 16 16).toNat

/-- The commands whose CH field is a channel (40_command_execution.md R141). -/
def usesCh (opc : Nat) : Bool := 0x30 ≤ opc && opc ≤ 0x33

/-- The commands whose IMM field is an operand (40_command_execution.md R141). -/
def usesImm (opc : Nat) : Bool := opc == 0x11 || opc == 0x13 || opc == 0x30

/-- The opcode map (30_encoding.md R113): the row an opcode selects, with the operands its fields hold; `none` for an
unassigned opcode. -/
def opmap (opc ch imm : Nat) : Option Instr :=
  match opc with
  | 0x00 => some .nop
  | 0x01 => some .reset
  | 0x10 => some .chainReset
  | 0x11 => some (.designLowcut imm)
  | 0x12 => some .designPeak
  | 0x13 => some (.designHighcut imm)
  | 0x20 => some .magAt
  | 0x21 => some .sweep
  | 0x30 => some (.ingest ch imm)
  | 0x31 => some (.produce ch)
  | 0x32 => some (.pop ch)
  | 0x33 => some (.clear ch)
  | _ => none

/-- Some bit that must be zero is 1 (30_encoding.md R116). -/
def reservedBitSet (v : Word) : Bool :=
  fieldRsv v != 0 || (!usesCh (fieldOpc v) && fieldCh v != 0) || (!usesImm (fieldOpc v) && fieldImm v != 0)

/-- The decoder: ILLEGAL_OPCODE, then RESERVED_FIELD, in the order of 40_command_execution.md R141. Channels 2 and 3 are
rejected by the channel commands themselves, whose rules name BAD_CHANNEL (log 15). -/
def decode (v : Word) : Except ErrCode Instr :=
  match opmap (fieldOpc v) (fieldCh v) (fieldImm v) with
  | none => .error .illegalOpcode
  | some i => if reservedBitSet v then .error .reservedField else .ok i

/-- The `OPC` value of each command (30_encoding.md R113). -/
def Instr.opcode : Instr → Nat
  | .nop => 0x00
  | .reset => 0x01
  | .chainReset => 0x10
  | .designLowcut _ => 0x11
  | .designPeak => 0x12
  | .designHighcut _ => 0x13
  | .magAt => 0x20
  | .sweep => 0x21
  | .ingest _ _ => 0x30
  | .produce _ => 0x31
  | .pop _ => 0x32
  | .clear _ => 0x33

/-- What the `CH` field holds; 0 for a command without a channel (30_encoding.md R113). -/
def Instr.chField : Instr → Nat
  | .ingest ch _ => ch
  | .produce ch => ch
  | .pop ch => ch
  | .clear ch => ch
  | .nop | .reset | .chainReset | .designLowcut _ | .designPeak | .designHighcut _ | .magAt | .sweep => 0

/-- What the `IMM` field holds; 0 for a command without an immediate (30_encoding.md R113). -/
def Instr.immField : Instr → Nat
  | .designLowcut imm => imm
  | .designHighcut imm => imm
  | .ingest _ imm => imm
  | .nop | .reset | .chainReset | .designPeak | .magAt | .sweep | .produce _ | .pop _ | .clear _ => 0

/-- The encoder: the word each statement of 30_encoding.md R120 writes to CMD. -/
def encode (i : Instr) : Word :=
  BitVec.ofNat 32 (i.immField * 0x10000 + i.chField * 0x100 + i.opcode)

/-- A word from its four byte lanes, lane 0 first (20_memory.md R83). -/
def wordOfLanes (b0 b1 b2 b3 : Byte) : Word :=
  BitVec.ofNat 32 (b0.toNat + 0x100 * b1.toNat + 0x10000 * b2.toNat + 0x1000000 * b3.toNat)

/-- The four byte lanes of a word, lane 0 first (20_memory.md R83). -/
def lanesOfWord (w : Word) : List Byte :=
  [w.extractLsb' 0 8, w.extractLsb' 8 8, w.extractLsb' 16 8, w.extractLsb' 24 8]

/-- The host's question of the decoder: the command read from a word whose low `nbits` bits are `w`. A command is always
one 32-bit word (30_encoding.md R110), so more bits than 32 are no command. The word is laid out in its byte lanes and
put together again, as the bus carries it. -/
def decodeTableWord (nbits w : Nat) : Option Instr :=
  if nbits ≤ 32 then
    match lanesOfWord (BitVec.ofNat 32 (w % 2 ^ nbits)) with
    | [b0, b1, b2, b3] =>
      match decode (wordOfLanes b0 b1 b2 b3) with
      | .ok i => some i
      | .error _ => none
    | _ => none
  else none

end Sys2Proof
end

