-- ==== Sys2Proof/Config.lean ====
section
/-! DEFINITION. What an implementation fixes: the build parameters (00_scope.md R6), and the form of a numerics
configuration `NX` (40_command_execution.md R145). Which `NX` an instance has is a build parameter: the reference one, or
a FREE VALUE, so that a claim holds for every `NX` that the spec allows (log 7). -/

namespace Sys2Proof

/-- The numerics configuration of an instance (00_scope.md R6): the reference configuration `NX_ref`, or another legal
one. The number only tells one free choice from another. -/
inductive NxName where
  | reference
  | other (id : Nat)
  deriving DecidableEq, Repr

/-- The build parameters of one instance (00_scope.md R6); `NCH` is fixed at 2. `srbBase` is the byte address of the
window on the platform bus. -/
structure Build where
  k : Nat
  fqCap : Nat
  j : Nat
  srbBase : Nat
  nx : NxName
  deriving DecidableEq, Repr

/-- The reference instance (00_scope.md R6). `SRB_BASE` is OPEN in the spec (92_eei_decisions.md D49): DESIGN CHOICE 0,
unsafe for a claim about platform addresses at reset only (log 2). -/
def Build.reference : Build := { k := 11, fqCap := 4, j := 12, srbBase := 0, nx := .reference }

/-- The small instance of 95_test_vectors.md: `N = 8`. -/
def Build.small : Build := { k := 3, fqCap := 4, j := 12, srbBase := 0, nx := .reference }

/-- The five coefficients of a section (10_state.md R54). -/
structure Coefs where
  b0 : Word
  b1 : Word
  b2 : Word
  a1 : Word
  a2 : Word
  deriving DecidableEq, Repr, Inhabited

/-- A numerics configuration `NX`: the functions that produce every computed `f32`, with the signatures of
40_command_execution.md R145. -/
structure Numerics where
  hp : (fc fs : Word) → (o j : Nat) → Coefs
  lp : (fc fs : Word) → (o j : Nat) → Coefs
  pk : (fc g q fs : Word) → Coefs
  mag : (secs : List Coefs) → (f fs : Word) → Word
  colFreq : (fmin fmax : Word) → (x w : Nat) → Word
  binMag : (x : List Word) → (win k : Nat) → Word
  db : (m : Word) → Word

/-- Some element of a type that has one, known by nothing but its type. It stands in for a value in compiled code only,
where no value over the real numbers can be computed (log 26). -/
def anElement (α : Type) [Nonempty α] : α := anElement α
partial_fixpoint

/-- FREE VALUE: an element of a type, one for each number. Nothing is known of it but what its type says (log 7, log 26).
-/
opaque Config.free {α : Type} [Inhabited α] (id : Nat) : α

end Sys2Proof
end

