-- ==== Sys2Proof/Machine/State.lean ====
section
/-! DEFINITION. The state of the machine as plain data: every element of 10_state.md R30, and the model's own fields for
the build parameters (log 1) and the host (log 3). -/

namespace Sys2Proof.Machine

/-- One transform frame: `NB` decibel values (10_state.md R59). -/
abbrev Frame := List Word

/-- One channel's frame queue, freshness flag and drop counter (10_state.md R59, R62, R52). -/
structure Chan where
  fq : List Frame
  fresh : Bool
  drop : BitVec 16
  deriving DecidableEq, Repr

/-- The host: its program and statement index (30_encoding.md R120, R123; ID-24), its last-read value (R120), the
platform's answer to its latest access (20_memory.md R82), and the reset input (70_reset_and_hazards.md R300). The
model's own, not the spec's state (log 3, log 5). -/
structure HostPort where
  program : List HostStmt
  index : Nat
  lastRead : Word
  errorResponse : Bool
  resetHeld : Bool
  deriving DecidableEq, Repr

/-- The bytes of the buffers SB, RW, FOUT and RESP, keyed by window offset: addresses strictly rising, no entry equal to
the byte's reset contents (log 14). -/
abbrev Memory := List Host.Cell

/-- The state of the SRB (10_state.md R30) with its build parameters and its host. `errcode` holds `ERRCODE[7:0]`; the
constant and derived registers (ID, VERSION, CFG, FQSTAT, DROPCNT, BIN_WIDTH) and the write-only CMD hold nothing. -/
structure State where
  build : Build
  ctrl : Word
  status : Word
  errcode : Byte
  result : Word
  arg0 : Word
  arg1 : Word
  arg2 : Word
  sampleRate : Word
  floorDb : Word
  respFloorDb : Word
  fmin : Word
  fmax : Word
  width : Word
  bypass : Word
  coef : Vector Coefs 9
  ch0 : Chan
  ch1 : Chan
  mem : Memory
  host : HostPort
  deriving DecidableEq, Repr

/-- No event of the SRB stops it or diverts control: there are no traps (60_exceptions.md R276), so no step faults and
the type is empty. Safe: nothing is left out by it (log 25). -/
inductive Fault where
  deriving DecidableEq, Repr

/-- Why a step has no meaning. -/
inductive Refusal where
  /-- Raised by a dispatch arm without a meaning; no arm is one. Safe. -/
  | notModelled (mnemonic : String)
  /-- Raised by a host access while the platform holds reset asserted, which is outside the spec
  (70_reset_and_hazards.md R300, ID-9: `refuse`). Safe (log 5). -/
  | accessDuringReset
  /-- Raised by a host access outside the SRB window: another device answers it, which the spec does not describe.
  Safe (log 6). -/
  | outsideWindow
  deriving DecidableEq, Repr

/-- The identity section `(1, 0, 0, 0, 0)` (10_state.md R54). -/
def identityCoefs : Coefs := { b0 := 0x3F800000, b1 := 0, b2 := 0, a1 := 0, a2 := 0 }

/-- A channel after reset: empty queue, not fresh, no drops (10_state.md R59, R62, R52). -/
def Chan.reset : Chan := { fq := [], fresh := false, drop := 0 }

/-- The host before it runs a program: DESIGN CHOICE, the spec gives the host no reset state (log 3). -/
def HostPort.reset : HostPort :=
  { program := [], index := 0, lastRead := 0, errorResponse := false, resetHeld := false }

/-- The reset state of an instance with build parameters `b` (70_reset_and_hazards.md R301). Memory with nothing listed
reads as the buffers' reset contents. -/
def State.resetOf (b : Build) : State :=
  { build := b
    ctrl := 0x00000005
    status := 0x00000000
    errcode := 0x00
    result := 0x00000000
    arg0 := 0x00000000
    arg1 := 0x00000000
    arg2 := 0x00000000
    sampleRate := 0x472C4400
    floorDb := 0xC2400000
    respFloorDb := 0xC2C80000
    fmin := 0x41A00000
    fmax := 0x469C4000
    width := 0x00000000
    bypass := 0x0000F1F7
    coef := Vector.replicate 9 identityCoefs
    ch0 := Chan.reset
    ch1 := Chan.reset
    mem := []
    host := HostPort.reset }

/-- The machine right after reset: the reference instance (00_scope.md R6; log 1). -/
def State.reset : State := State.resetOf Build.reference

end Sys2Proof.Machine
end

