-- ==== Sys2Proof/Machine/Params.lean ====
section
/-! DEFINITION. What follows from the build parameters: the array lengths, the legal builds, CFG, and the window's place
on the platform bus (00_scope.md R6; 10_state.md R36; 20_memory.md R80). -/

namespace Sys2Proof.Machine

/-- `N = 2^K`: transform length, window length, staging length (00_scope.md R6). -/
def Build.n (b : Build) : Nat := 2 ^ b.k

/-- `NB = N/2`: bins per frame (00_scope.md R6). -/
def Build.nb (b : Build) : Nat := Build.n b / 2

/-- `WMAX = 2^J`: pixel columns at most (00_scope.md R6). -/
def Build.wmax (b : Build) : Nat := 2 ^ b.j

/-- The size of the window, 16 MiB (20_memory.md R80). -/
def windowSize : Nat := 0x1000000

/-- The legal values of the build parameters (00_scope.md R6). -/
def Build.legal (b : Build) : Bool :=
  (3 ≤ b.k && b.k ≤ 15) && (1 ≤ b.fqCap && b.fqCap ≤ 15) && b.j ≤ 15 && b.srbBase % windowSize == 0

/-- `CFG` (10_state.md R36): K, FQ_CAP, J and `NCH = 2`. -/
def Build.cfgWord (b : Build) : Word :=
  BitVec.ofNat 32 (b.k % 16 + 0x10 * (b.fqCap % 16) + 0x100 * (b.j % 16) + 0x1000 * 2)

/-- The offset a platform address names, if it lies in the window (20_memory.md R80). -/
def windowOffset (b : Build) (addr : Nat) : Option Nat :=
  if b.srbBase ≤ addr ∧ addr < b.srbBase + windowSize then some (addr - b.srbBase) else none

end Sys2Proof.Machine
end

