-- ==== Sys2Proof/Machine/Float.lean ====
section
/-! DEFINITION. IEEE 754 binary32 values by their bit patterns (00_scope.md R9), in exact integer arithmetic, and
`rne32` (R10). A finite value is an integer number of units of `2^-149`, the least positive subnormal. -/

namespace Sys2Proof.Machine

/-- Exponent and fraction, bits 30:0 (00_scope.md R9). -/
def f32Mag (v : Word) : Nat := v.toNat % 0x80000000

/-- The sign, bit 31 (00_scope.md R9). -/
def f32Neg (v : Word) : Bool := 0x80000000 ≤ v.toNat

/-- `isNaN` (00_scope.md R9). -/
def isNaN (v : Word) : Bool := 0x7F800000 < f32Mag v

/-- `isInf` (00_scope.md R9). -/
def isInf (v : Word) : Bool := f32Mag v == 0x7F800000

/-- `isFinite` (00_scope.md R9). -/
def isFinite (v : Word) : Bool := f32Mag v < 0x7F800000

/-- The place of a value in the IEEE order: sign and magnitude as one integer, so that `-0` and `+0` are equal. -/
def f32Key (v : Word) : Int := if f32Neg v then -(f32Mag v : Int) else (f32Mag v : Int)

/-- `a < b` as IEEE compares: false with a NaN, and `-0` equals `+0` (00_scope.md R9). -/
def f32Lt (a b : Word) : Bool := !isNaN a && !isNaN b && f32Key a < f32Key b

/-- `min(a, b) = if b < a then b else a` (00_scope.md R9). -/
def f32Min (a b : Word) : Word := if f32Lt b a then b else a

/-- `max(a, b) = if b > a then b else a` (00_scope.md R9). -/
def f32Max (a b : Word) : Word := if f32Lt a b then b else a

/-- `min(max(v, lo), hi)`, the form of every clamp of the spec. -/
def f32Clamp (v lo hi : Word) : Word := f32Min (f32Max v lo) hi

/-- The magnitude of a finite value in units of `2^-149`: a subnormal is its fraction; a normal value of exponent field
`e` is its significand times `2^(e-1)` (00_scope.md R9). -/
def magUnits (mag : Nat) : Nat :=
  if mag / 0x800000 = 0 then mag else (0x800000 + mag % 0x800000) * 2 ^ (mag / 0x800000 - 1)

/-- `val(v)` of a finite `v`, in units of `2^-149` (00_scope.md R9). On an infinity or a NaN it is a number without
meaning, which no rule reads (log 24). -/
def valUnits (v : Word) : Int := if f32Neg v then -(magUnits (f32Mag v) : Int) else (magUnits (f32Mag v) : Int)

/-- The number of units of `2^-149` in 1. -/
def unitsPerOne : Nat := 2 ^ 149

/-- The integer nearest to `a / b`, a tie to the even one. -/
def roundHalfEven (a b : Nat) : Nat :=
  if 2 * (a % b) < b then a / b
  else if b < 2 * (a % b) then a / b + 1
  else a / b + a / b % 2

/-- The greatest `e` with `2^e ≤ n / d`, for positive `n` and `d`. -/
def ratioLog2 (n d : Nat) : Int :=
  let e : Int := (n.log2 : Int) - (d.log2 : Int)
  if d * 2 ^ e.toNat ≤ n * 2 ^ (-e).toNat then e else e - 1

/-- The magnitude bits of the `f32` nearest to `n / d` under round-to-nearest-even: the quantum is `2^q`, 24 significant
bits wide above the subnormals; a result at or past the overflow threshold is the infinity (00_scope.md R10). -/
def roundMagBits (n d : Nat) : Nat :=
  let q : Int := max (ratioLog2 n d - 23) (-149)
  let m := roundHalfEven (n * 2 ^ (-q).toNat) (d * 2 ^ q.toNat)
  min ((q + 149).toNat * 0x800000 + m) 0x7F800000

/-- `rne32(num / den)` for an exact rational (00_scope.md R10); `+0` for 0. DESIGN CHOICE: R10 does not give the sign of
the zero to which a negative ratio other than 0 rounds; the sign is kept, so it is `−0` (log 22). -/
def rne32 (num : Int) (den : Nat) : Word :=
  if num = 0 then 0
  else BitVec.ofNat 32 ((if num < 0 then 0x80000000 else 0) + roundMagBits num.natAbs den)

/-- `FLOAT(x)` of the decimal `x = num / den` (00_scope.md R9). -/
def floatOf (num : Int) (den : Nat) : Word := rne32 num den

/-- `QNAN` (00_scope.md R9). -/
def qnan : Word := 0x7FC00000

/-- `+Inf`. -/
def posInf : Word := 0x7F800000

/-- `-Inf`. -/
def negInf : Word := 0xFF800000

/-- `FLOAT(1)`. -/
def f32One : Word := 0x3F800000

/-- `clampFloor(fl, d)` (00_scope.md R14). -/
def clampFloor (fl d : Word) : Word := if isNaN d || f32Lt d fl then fl else d

end Sys2Proof.Machine
end

