-- ==== Sys2Proof/Machine/Ideal.lean ====
section
/-! DEFINITION. The ideal values of the spec over the reals (00_scope.md R10): what each field of a numerics configuration
approximates. -/

namespace Sys2Proof.Ideal

open Sys2Proof.Machine

/-- `val(v)` of a finite `f32` (00_scope.md R9). -/
noncomputable def val (v : Word) : ℝ := (valUnits v : ℝ) / 2 ^ 149

/-- The magnitude from which `rne32` gives an infinity (00_scope.md R10). -/
noncomputable def overflowBound : ℝ := 2 ^ 128 * (1 - 1 / 2 ^ 25)

/-! ## Magnitude response -/

/-- The evaluation point `z = e^(iω)`, `ω = 2π·val(f)/val(fs)` (42_magnitude_response.md R200). -/
noncomputable def evalPoint (f fs : Word) : ℂ :=
  Complex.exp (((2 * Real.pi * val f / val fs : ℝ) : ℂ) * Complex.I)

/-- `Nm(z)` (42_magnitude_response.md R201). -/
noncomputable def numerator (c : Coefs) (z : ℂ) : ℂ :=
  (val c.b0 : ℂ) + (val c.b1 : ℂ) * z⁻¹ + (val c.b2 : ℂ) * (z⁻¹) ^ 2

/-- `Dn(z)` (42_magnitude_response.md R201). -/
noncomputable def denominator (c : Coefs) (z : ℂ) : ℂ :=
  1 + (val c.a1 : ℂ) * z⁻¹ + (val c.a2 : ℂ) * (z⁻¹) ^ 2

/-- `|H_s(f)|`, defined where `Dn(z) ≠ 0` (42_magnitude_response.md R201). -/
noncomputable def sectionMag (c : Coefs) (z : ℂ) : ℝ := ‖numerator c z‖ / ‖denominator c z‖

/-- `m(S, f)` (42_magnitude_response.md R202). -/
noncomputable def cascadeMag (secs : List Coefs) (f fs : Word) : ℝ :=
  (secs.map fun c => sectionMag c (evalPoint f fs)).prod

/-- `colIdeal(fmin, fmax, x, W)` (42_magnitude_response.md R204). -/
noncomputable def colIdeal (fmin fmax : Word) (x w : Nat) : ℝ :=
  val fmin * (val fmax / val fmin) ^ ((x : ℝ) / (w : ℝ))

/-! ## Coefficient design -/

/-- Five real coefficients. -/
structure RealCoefs where
  b0 : ℝ
  b1 : ℝ
  b2 : ℝ
  a1 : ℝ
  a2 : ℝ

/-- `Q(o, j)` (41_coefficient_design.md R175). -/
noncomputable def butterworthQ (o j : Nat) : ℝ := 1 / (2 * Real.cos ((2 * j + 1) * Real.pi / (4 * o)))

/-- `hpIdeal(f, fs, Q)` (41_coefficient_design.md R176). -/
noncomputable def hpIdeal (f fs q : ℝ) : RealCoefs :=
  let n := Real.tan (Real.pi * f / fs)
  let c1 := 1 / (1 + n / q + n ^ 2)
  { b0 := c1, b1 := -2 * c1, b2 := c1, a1 := 2 * c1 * (n ^ 2 - 1), a2 := c1 * (1 - n / q + n ^ 2) }

/-- `lpIdeal(f, fs, Q)` (41_coefficient_design.md R177). -/
noncomputable def lpIdeal (f fs q : ℝ) : RealCoefs :=
  let n := 1 / Real.tan (Real.pi * f / fs)
  let c1 := 1 / (1 + n / q + n ^ 2)
  { b0 := c1, b1 := 2 * c1, b2 := c1, a1 := 2 * c1 * (1 - n ^ 2), a2 := c1 * (1 - n / q + n ^ 2) }

/-- `pkIdeal(f, g, Q, fs)` (41_coefficient_design.md R178). -/
noncomputable def pkIdeal (f g q fs : ℝ) : RealCoefs :=
  let a := (10 : ℝ) ^ (g / 40)
  let w := 2 * Real.pi * f / fs
  let alpha := Real.sin w / (2 * q)
  let c := -2 * Real.cos w
  let a0 := 1 + alpha / a
  { b0 := (1 + alpha * a) / a0, b1 := c / a0, b2 := (1 - alpha * a) / a0, a1 := c / a0, a2 := (1 - alpha / a) / a0 }

/-- `Nm(e^(iω))` of a section with real coefficients (42_magnitude_response.md R201). -/
noncomputable def realNum (c : RealCoefs) (w : ℝ) : ℂ :=
  let z : ℂ := Complex.exp ((w : ℂ) * Complex.I)
  (c.b0 : ℂ) + (c.b1 : ℂ) * z⁻¹ + (c.b2 : ℂ) * (z⁻¹) ^ 2

/-- `Dn(e^(iω))` of a section with real coefficients (42_magnitude_response.md R201). -/
noncomputable def realDen (c : RealCoefs) (w : ℝ) : ℂ :=
  let z : ℂ := Complex.exp ((w : ℂ) * Complex.I)
  1 + (c.a1 : ℂ) * z⁻¹ + (c.a2 : ℂ) * (z⁻¹) ^ 2

/-- The magnitude of a section with real coefficients at `e^(iω)` (42_magnitude_response.md R201). -/
noncomputable def realMag (c : RealCoefs) (w : ℝ) : ℝ := ‖realNum c w‖ / ‖realDen c w‖

/-- The magnitude of the ideal low-cut stage of order `o` at `e^(iω)` (41_coefficient_design.md R184). -/
noncomputable def lowcutMag (fc fs : ℝ) (o : ℕ) (w : ℝ) : ℝ :=
  ∏ j ∈ Finset.range o, realMag (hpIdeal fc fs (butterworthQ o j)) w

/-- The magnitude of the ideal high-cut stage of order `o` at `e^(iω)` (41_coefficient_design.md R184). -/
noncomputable def highcutMag (fc fs : ℝ) (o : ℕ) (w : ℝ) : ℝ :=
  ∏ j ∈ Finset.range o, realMag (lpIdeal fc fs (butterworthQ o j)) w

/-! ## Spectral analyzer -/

/-- The raw window `u_n` (43_spectral_analyzer.md R230). -/
noncomputable def rawWindow (win len n : Nat) : ℝ :=
  let t : ℝ := 2 * Real.pi * n / ((len : ℝ) - 1)
  if win = 0 then 1
  else if win = 1 then 0.5 - 0.5 * Real.cos t
  else 0.35875 - 0.48829 * Real.cos t + 0.14128 * Real.cos (2 * t) - 0.01168 * Real.cos (3 * t)

/-- The applied window `w_n`, whose samples sum to `N` (43_spectral_analyzer.md R230). -/
noncomputable def window (win len n : Nat) : ℝ :=
  rawWindow win len n * len / ∑ k ∈ Finset.range len, rawWindow win len k

/-- `X_k` (43_spectral_analyzer.md R231). -/
noncomputable def transform (x : List Word) (win k : Nat) : ℂ :=
  ∑ n ∈ Finset.range x.length,
    ((val (x.getD n 0) * window win x.length n : ℝ) : ℂ)
      * Complex.exp (((-2 * Real.pi * k * n / x.length : ℝ) : ℂ) * Complex.I)

/-- `m_k = |X_k| / (N/2)` (43_spectral_analyzer.md R231). -/
noncomputable def binIdeal (x : List Word) (win k : Nat) : ℝ := ‖transform x win k‖ / ((x.length : ℝ) / 2)

/-- `Σ_n |val(x_n)|·w_n` (40_command_execution.md R146). -/
noncomputable def windowedSum (x : List Word) (win : Nat) : ℝ :=
  ∑ n ∈ Finset.range x.length, |val (x.getD n 0)| * window win x.length n

/-- `20·log10(m)` (40_command_execution.md R147). -/
noncomputable def decibels (m : ℝ) : ℝ := 20 * Real.logb 10 m

end Sys2Proof.Ideal
end

