-- ==== Sys2Proof/Machine/Reference.lean ====
section
/-! DEFINITION. `rne32` of a real number (00_scope.md R10) and the reference configuration `NX_ref`, which rounds the
ideal value of each field once (40_command_execution.md R145). -/

namespace Sys2Proof.Ideal

open Sys2Proof.Machine

/-- The natural number nearest to a non-negative real, a tie to the even one. -/
noncomputable def nearestEven (x : ℝ) : ℕ :=
  if x - ⌊x⌋₊ < 1 / 2 then ⌊x⌋₊
  else if 1 / 2 < x - ⌊x⌋₊ then ⌊x⌋₊ + 1
  else ⌊x⌋₊ + ⌊x⌋₊ % 2

/-- The exponent of the unit in the last place of the `f32` values about a positive real: 24 significant bits, but never
below the least subnormal's (00_scope.md R9, R10). -/
noncomputable def quantumExp (r : ℝ) : ℤ := max (Int.log 2 r - 23) (-149)

/-- The magnitude bits of the `f32` nearest to a positive real; at or past the overflow threshold, the infinity's
(00_scope.md R10). -/
noncomputable def roundedMag (r : ℝ) : ℕ :=
  min ((quantumExp r + 149).toNat * 0x800000 + nearestEven (r / 2 ^ quantumExp r)) 0x7F800000

/-- `rne32(r)` of a real `r` (00_scope.md R10): `+0` for 0. DESIGN CHOICE: R10 does not give the sign of the zero to which
a negative `r` rounds; it keeps the sign of `r`, as IEEE 754 has it (log 22). -/
noncomputable def rne32 (r : ℝ) : Word :=
  if r = 0 then 0 else BitVec.ofNat 32 ((if r < 0 then 0x80000000 else 0) + roundedMag |r|)

/-- Five reals, each rounded once (41_coefficient_design.md R176 to R178). -/
noncomputable def roundCoefs (c : RealCoefs) : Coefs :=
  { b0 := rne32 c.b0, b1 := rne32 c.b1, b2 := rne32 c.b2, a1 := rne32 c.a1, a2 := rne32 c.a2 }

/-- Some section has a pole at `f` (42_magnitude_response.md R201). -/
def HasPole (secs : List Coefs) (f fs : Word) : Prop := ∃ c ∈ secs, denominator c (evalPoint f fs) = 0

open Classical in
/-- The reference configuration `NX_ref` (40_command_execution.md R145): `rne32` of each field's ideal value, `QNAN` at a
zero denominator, and the decibels of `+0` and `+Inf`. -/
noncomputable def nxRef : Numerics :=
  { hp := fun fc fs o j => roundCoefs (hpIdeal (val fc) (val fs) (butterworthQ o j))
    lp := fun fc fs o j => roundCoefs (lpIdeal (val fc) (val fs) (butterworthQ o j))
    pk := fun fc g q fs => roundCoefs (pkIdeal (val fc) (val g) (val q) (val fs))
    mag := fun secs f fs => if HasPole secs f fs then qnan else rne32 (cascadeMag secs f fs)
    colFreq := fun fmin fmax x w => rne32 (colIdeal fmin fmax x w)
    binMag := fun x win k => rne32 (binIdeal x win k)
    db := fun m => if m = 0 then negInf else if m = posInf then posInf else rne32 (decibels (val m)) }

end Sys2Proof.Ideal
end

