-- ==== Sys2Proof/Machine/Accuracy.lean ====
section
/-! DEFINITION. What the spec asks of any numerics configuration (40_command_execution.md R146, R147), and the legal
configurations (00_scope.md R6). -/

namespace Sys2Proof.Ideal

open Sys2Proof.Machine

/-- The accuracy bounds `EPS_COEF`, `EPS_MAG`, `EPS_MAG_ABS`, `EPS_FFT`, `EPS_DB` and `EPS_FREQ`, parameters of an
instance (00_scope.md R6). -/
structure Eps where
  coef : ℝ
  mag : ℝ
  magAbs : ℝ
  fft : ℝ
  db : ℝ
  freq : ℝ

/-- The bounds are non-negative (00_scope.md R6). -/
def Eps.NonNeg (e : Eps) : Prop :=
  0 ≤ e.coef ∧ 0 ≤ e.mag ∧ 0 ≤ e.magAbs ∧ 0 ≤ e.fft ∧ 0 ≤ e.db ∧ 0 ≤ e.freq

/-! ## The operands of each field -/

/-- A legal sample rate (10_state.md R44). -/
def LegalRate (fs : Word) : Prop := isFinite fs = true ∧ 1000 ≤ val fs ∧ val fs ≤ 768000

/-- A clamped design frequency (41_coefficient_design.md R171). -/
def LegalFreq (fc fs : Word) : Prop := isFinite fc = true ∧ 1 ≤ val fc ∧ val fc ≤ val fs / 2 - 1

/-- A clamped gain (41_coefficient_design.md R172). -/
def LegalGain (g : Word) : Prop := isFinite g = true ∧ |val g| ≤ 24

/-- A clamped Q (41_coefficient_design.md R174). -/
def LegalQ (q : Word) : Prop := isFinite q = true ∧ val 0x3DCCCCCD ≤ val q ∧ val q ≤ 10

/-- The operands of a cut design (40_command_execution.md R145). -/
def LegalCut (fc fs : Word) (o j : Nat) : Prop := LegalRate fs ∧ LegalFreq fc fs ∧ 1 ≤ o ∧ o ≤ 4 ∧ j < o

/-- The operands of the peaking design (40_command_execution.md R145). -/
def LegalPeak (fc g q fs : Word) : Prop := LegalRate fs ∧ LegalFreq fc fs ∧ LegalGain g ∧ LegalQ q

/-- Every coefficient of the section is finite (10_state.md R54). -/
def FiniteSection (c : Coefs) : Prop :=
  isFinite c.b0 = true ∧ isFinite c.b1 = true ∧ isFinite c.b2 = true ∧ isFinite c.a1 = true ∧ isFinite c.a2 = true

/-- The operands of a magnitude: a non-empty list of finite sections, a finite frequency, a legal rate
(40_command_execution.md R145). -/
def LegalMag (secs : List Coefs) (f fs : Word) : Prop :=
  secs ≠ [] ∧ (∀ c ∈ secs, FiniteSection c) ∧ isFinite f = true ∧ LegalRate fs

/-- A legal sweep frequency (10_state.md R47). -/
def LegalColumnFreq (f : Word) : Prop := isFinite f = true ∧ 1 ≤ val f ∧ val f ≤ 1000000

/-- The operands of a column frequency as SWEEP gives them (42_magnitude_response.md R206; log 13). -/
def LegalColumn (fmin fmax : Word) (w : Nat) : Prop :=
  LegalColumnFreq fmin ∧ LegalColumnFreq fmax ∧ val fmin ≤ val fmax ∧ 1 ≤ w

/-- The operands of a bin magnitude (40_command_execution.md R145). -/
def LegalBin (x : List Word) (win k : Nat) : Prop :=
  (∀ v ∈ x, isFinite v = true) ∧ (∃ m, 3 ≤ m ∧ m ≤ 15 ∧ x.length = 2 ^ m) ∧ win ≤ 2 ∧ k < x.length / 2

/-- A magnitude to which `NX.db` is applied: `+0`, positive or `+Inf` (40_command_execution.md R147). -/
def LegalDb (m : Word) : Prop := m.toNat ≤ 0x7F800000

/-! ## The clauses -/

/-- `|val(result) − ideal| ≤ EPS_COEF·max(1, |ideal|)` in each coefficient (40_command_execution.md R146). -/
def CoefsWithin (e : ℝ) (c : Coefs) (r : RealCoefs) : Prop :=
  |val c.b0 - r.b0| ≤ e * max 1 |r.b0| ∧ |val c.b1 - r.b1| ≤ e * max 1 |r.b1| ∧
  |val c.b2 - r.b2| ≤ e * max 1 |r.b2| ∧ |val c.a1 - r.a1| ≤ e * max 1 |r.a1| ∧
  |val c.a2 - r.a2| ≤ e * max 1 |r.a2|

/-- A magnitude result `w` for the ideal `m`, of a cascade or of a bin: `+0`, positive finite or `+Inf`; finite and within
`bound` when `rne32(m)` is finite, and else `+Inf` (40_command_execution.md R146). -/
def MagWithin (bound m : ℝ) (w : Word) : Prop :=
  w.toNat ≤ 0x7F800000 ∧
  (m < overflowBound → isFinite w = true ∧ |val w - m| ≤ bound) ∧ (overflowBound ≤ m → w = posInf)

/-- Everything 40_command_execution.md R146 and R147 ask of a numerics configuration with accuracy bounds `e`. An ideal of
0 makes the result `+0` in `NX.mag` only; a bin whose ideal is 0 may be any value within its bound. -/
structure Meets (nx : Numerics) (e : Eps) : Prop where
  hp : ∀ fc fs o j, LegalCut fc fs o j → FiniteSection (nx.hp fc fs o j) ∧
    CoefsWithin e.coef (nx.hp fc fs o j) (hpIdeal (val fc) (val fs) (butterworthQ o j))
  lp : ∀ fc fs o j, LegalCut fc fs o j → FiniteSection (nx.lp fc fs o j) ∧
    CoefsWithin e.coef (nx.lp fc fs o j) (lpIdeal (val fc) (val fs) (butterworthQ o j))
  pk : ∀ fc g q fs, LegalPeak fc g q fs → FiniteSection (nx.pk fc g q fs) ∧
    CoefsWithin e.coef (nx.pk fc g q fs) (pkIdeal (val fc) (val g) (val q) (val fs))
  magPole : ∀ secs f fs, LegalMag secs f fs → HasPole secs f fs → nx.mag secs f fs = qnan
  mag : ∀ secs f fs, LegalMag secs f fs → ¬HasPole secs f fs →
    MagWithin (e.mag * cascadeMag secs f fs + e.magAbs) (cascadeMag secs f fs) (nx.mag secs f fs)
  magZero : ∀ secs f fs, LegalMag secs f fs → ¬HasPole secs f fs → cascadeMag secs f fs = 0 → nx.mag secs f fs = 0
  colFreqFirst : ∀ fmin fmax w, LegalColumn fmin fmax w → nx.colFreq fmin fmax 0 w = fmin
  colFreqPoint : ∀ fmin x w, LegalColumn fmin fmin w → x < w → nx.colFreq fmin fmin x w = fmin
  colFreq : ∀ fmin fmax x w, LegalColumn fmin fmax w → x < w →
    isFinite (nx.colFreq fmin fmax x w) = true ∧ f32Lt 0 (nx.colFreq fmin fmax x w) = true ∧
    |val (nx.colFreq fmin fmax x w) - colIdeal fmin fmax x w| ≤ e.freq * colIdeal fmin fmax x w
  colFreqMono : ∀ fmin fmax x y w, LegalColumn fmin fmax w → x ≤ y → y < w →
    f32Key (nx.colFreq fmin fmax x w) ≤ f32Key (nx.colFreq fmin fmax y w)
  binMag : ∀ x win k, LegalBin x win k →
    MagWithin (e.fft * (2 / x.length) * windowedSum x win) (binIdeal x win k) (nx.binMag x win k)
  dbZero : nx.db 0 = negInf
  dbInf : nx.db posInf = posInf
  dbOne : nx.db f32One = 0
  db : ∀ m, isFinite m = true → f32Lt 0 m = true →
    isFinite (nx.db m) = true ∧ |val (nx.db m) - decibels (val m)| ≤ e.db
  dbMono : ∀ m1 m2, LegalDb m1 → LegalDb m2 → f32Key m1 ≤ f32Key m2 → f32Key (nx.db m1) ≤ f32Key (nx.db m2)

/-- A numerics configuration an instance may have: one that meets R146 and R147 with some non-negative bounds
(00_scope.md R6). -/
abbrev LegalNumerics := { nx : Numerics // ∃ e : Eps, Eps.NonNeg e ∧ Meets nx e }

/-- The bounds that `NX_ref` meets: 40_command_execution.md R146 and R147, but for results in the subnormal range, where
one rounding errs by up to `2^-150` and the relative bounds that R146 states for `NX_ref` do not hold (DEDUCED, log 12). -/
noncomputable def refEps : Eps :=
  { coef := 1 / 2 ^ 24, mag := 1 / 2 ^ 24, magAbs := 1 / 2 ^ 150, fft := 1,
    db := 1 / 2 ^ 24 * (20 * Real.logb 10 (val 0x7F7FFFFF)), freq := 1 / 2 ^ 24 }

end Sys2Proof.Ideal
end

