-- ==== Sys2Proof/Machine/Existence.lean ====
section
/-! DEFINITION. Legal numerics configurations exist, so that an instance can have any of them (00_scope.md R6). The one
shown here is coarse: R6 leaves the accuracy bounds open. -/

namespace Sys2Proof.Ideal

open Sys2Proof.Machine

/-! ### The analysis windows are not negative -/

theorem rawWindow_nonneg (win len n : Nat) : 0 ≤ rawWindow win len n := by
  unfold rawWindow
  simp only
  set t : ℝ := 2 * Real.pi * n / ((len : ℝ) - 1)
  have h1 := Real.cos_le_one t
  have h2 := Real.neg_one_le_cos t
  split
  · exact zero_le_one
  · split
    · norm_num; linarith
    · rw [Real.cos_two_mul, Real.cos_three_mul]
      set c := Real.cos t
      nlinarith [mul_nonneg (sub_nonneg.2 h1) (sub_nonneg.2 h1), mul_nonneg (by linarith : (0 : ℝ) ≤ 1 + c) (sub_nonneg.2 h1),
        mul_nonneg (mul_nonneg (sub_nonneg.2 h1) (sub_nonneg.2 h1)) (sub_nonneg.2 h1),
        mul_nonneg (mul_nonneg (sub_nonneg.2 h1) (sub_nonneg.2 h1)) (by linarith : (0 : ℝ) ≤ 1 + c)]

theorem window_nonneg (win len n : Nat) : 0 ≤ window win len n :=
  div_nonneg (mul_nonneg (rawWindow_nonneg win len n) (Nat.cast_nonneg len))
    (Finset.sum_nonneg fun k _ => rawWindow_nonneg win len k)

/-! ### Magnitudes -/

theorem cascadeMag_nonneg (secs : List Coefs) (f fs : Word) : 0 ≤ cascadeMag secs f fs := by
  unfold cascadeMag
  induction secs with
  | nil => simp
  | cons c cs ih =>
    simp only [List.map_cons, List.prod_cons]
    exact mul_nonneg (div_nonneg (norm_nonneg _) (norm_nonneg _)) ih

theorem binIdeal_nonneg (x : List Word) (win k : Nat) : 0 ≤ binIdeal x win k :=
  div_nonneg (norm_nonneg _) (by positivity)

/-- No bin magnitude exceeds the windowed sum (43_spectral_analyzer.md R231). -/
theorem binIdeal_le (x : List Word) (win k : Nat) : binIdeal x win k ≤ 2 / x.length * windowedSum x win := by
  have h : ‖transform x win k‖ ≤ windowedSum x win := by
    unfold transform windowedSum
    refine (norm_sum_le _ _).trans (Finset.sum_le_sum fun n _ => ?_)
    rw [norm_mul, Complex.norm_exp_ofReal_mul_I, mul_one, Complex.norm_real, Real.norm_eq_abs, abs_mul,
      abs_of_nonneg (window_nonneg win x.length n)]
  unfold binIdeal
  rw [div_div_eq_mul_div, div_eq_mul_inv, mul_assoc, mul_comm, div_eq_mul_inv]
  have : (0 : ℝ) ≤ 2 * (x.length : ℝ)⁻¹ := by positivity
  nlinarith

theorem val_zero : val 0 = 0 := by
  rw [val, show valUnits 0 = 0 by decide]
  norm_num

theorem overflowBound_pos : 0 < overflowBound := by unfold overflowBound; norm_num

/-- A positive finite `f32` lies between `2^-149` and `2^128`. -/
theorem val_bounds {m : Word} (hf : isFinite m = true) (hp : f32Lt 0 m = true) :
    1 / 2 ^ 149 ≤ val m ∧ val m ≤ 2 ^ 128 := by
  have hk : f32Key 0 = 0 := by decide
  simp only [f32Lt, hk, Bool.and_eq_true, decide_eq_true_eq] at hp
  have hneg : f32Neg m = false := by
    by_contra h
    simp only [Bool.not_eq_false] at h
    have := hp.2
    simp only [f32Key, h, if_true] at this
    omega
  have hpos : 0 < f32Mag m := by
    have := hp.2
    simp only [f32Key, hneg, Bool.false_eq_true, if_false] at this
    omega
  have hlt : f32Mag m < 0x7F800000 := by simpa [isFinite] using hf
  have hu : 1 ≤ magUnits (f32Mag m) ∧ magUnits (f32Mag m) ≤ 2 ^ 277 := by
    unfold magUnits
    split
    · omega
    · constructor
      · exact Nat.one_le_iff_ne_zero.2 (Nat.mul_ne_zero (by omega) (by positivity))
      · calc (0x800000 + f32Mag m % 0x800000) * 2 ^ (f32Mag m / 0x800000 - 1)
            ≤ 2 ^ 24 * 2 ^ 253 := Nat.mul_le_mul (by omega) (Nat.pow_le_pow_right (by omega) (by omega))
          _ = 2 ^ 277 := (pow_add 2 24 253).symm
  have hv : val m = (magUnits (f32Mag m) : ℝ) / 2 ^ 149 := by simp [val, valUnits, hneg]
  have h1 : (1 : ℝ) ≤ magUnits (f32Mag m) := by exact_mod_cast hu.1
  have h2 : (magUnits (f32Mag m) : ℝ) ≤ 2 ^ 277 := by exact_mod_cast hu.2
  rw [hv]
  constructor
  · gcongr
  · rw [div_le_iff₀ (by positivity)]
    calc (magUnits (f32Mag m) : ℝ) ≤ 2 ^ 277 := h2
      _ = 2 ^ 128 * 2 ^ 149 := pow_add 2 128 149

/-- The decibels of a positive finite `f32` are less than 3000 in magnitude. -/
theorem decibels_bound {m : Word} (hf : isFinite m = true) (hp : f32Lt 0 m = true) : |decibels (val m)| ≤ 3000 := by
  obtain ⟨h1, h2⟩ := val_bounds hf hp
  have hpos : 0 < val m := lt_of_lt_of_le (by positivity) h1
  have hb : (1 : ℝ) < 10 := by norm_num
  have lo : (-149 : ℝ) ≤ Real.logb 10 (val m) := by
    rw [Real.le_logb_iff_rpow_le hb hpos]
    refine le_trans ?_ h1
    rw [Real.rpow_neg (by norm_num), one_div]
    refine inv_anti₀ (by positivity) ?_
    rw [show (149 : ℝ) = ((149 : ℕ) : ℝ) by norm_num, Real.rpow_natCast]
    norm_num
  have hi : Real.logb 10 (val m) ≤ 128 := by
    rw [Real.logb_le_iff_le_rpow hb hpos]
    refine le_trans h2 ?_
    rw [show (128 : ℝ) = ((128 : ℕ) : ℝ) by norm_num, Real.rpow_natCast]
    norm_num
  unfold decibels
  rw [abs_le]
  constructor <;> linarith

/-- A column's ideal frequency is not below `fmin` (42_magnitude_response.md R204). -/
theorem le_colIdeal {fmin fmax : Word} (h1 : 1 ≤ val fmin) (h : val fmin ≤ val fmax) (x w : Nat) :
    val fmin ≤ colIdeal fmin fmax x w := by
  have hp : 0 < val fmin := by linarith
  have : (1 : ℝ) ≤ (val fmax / val fmin) ^ ((x : ℝ) / (w : ℝ)) :=
    Real.one_le_rpow ((one_le_div hp).2 h) (by positivity)
  unfold colIdeal
  nlinarith

/-! ### A legal configuration -/

open Classical in
/-- A coarse configuration: every coefficient 0, every magnitude 0 or the infinity, every column at `fmin`. -/
noncomputable def coarse : Numerics :=
  { hp := fun _ _ _ _ => { b0 := 0, b1 := 0, b2 := 0, a1 := 0, a2 := 0 }
    lp := fun _ _ _ _ => { b0 := 0, b1 := 0, b2 := 0, a1 := 0, a2 := 0 }
    pk := fun _ _ _ _ => { b0 := 0, b1 := 0, b2 := 0, a1 := 0, a2 := 0 }
    mag := fun secs f fs =>
      if HasPole secs f fs then qnan else if overflowBound ≤ cascadeMag secs f fs then posInf else 0
    colFreq := fun fmin _ _ _ => fmin
    binMag := fun x win k => if overflowBound ≤ binIdeal x win k then posInf else 0
    db := fun m => if m = 0 then negInf else if m = posInf then posInf else 0 }

theorem zeroCoefs_within (r : RealCoefs) : CoefsWithin 1 { b0 := 0, b1 := 0, b2 := 0, a1 := 0, a2 := 0 } r := by
  simp only [CoefsWithin, val_zero, zero_sub, abs_neg, one_mul, le_max_right, and_self]

theorem zeroCoefs_finite : FiniteSection { b0 := 0, b1 := 0, b2 := 0, a1 := 0, a2 := 0 } := by
  unfold FiniteSection; decide

open Classical in
theorem coarse_magWithin {bound m : ℝ} (hm : 0 ≤ m) (hb : m ≤ bound) :
    MagWithin bound m (if overflowBound ≤ m then posInf else 0) := by
  refine ⟨by split <;> decide, fun h => ?_, fun h => by simp [h]⟩
  rw [if_neg (not_le.2 h)]
  refine ⟨by decide, ?_⟩
  rw [val_zero, zero_sub, abs_neg, abs_of_nonneg hm]
  exact hb

theorem coarse_meets :
    Meets coarse { coef := 1, mag := 1, magAbs := 0, fft := 1, db := 3000, freq := 1 } where
  hp _ _ _ _ _ := ⟨zeroCoefs_finite, zeroCoefs_within _⟩
  lp _ _ _ _ _ := ⟨zeroCoefs_finite, zeroCoefs_within _⟩
  pk _ _ _ _ _ := ⟨zeroCoefs_finite, zeroCoefs_within _⟩
  magPole _ _ _ _ h := by simp [coarse, h]
  mag secs f fs _ h := by
    simp only [coarse, h, if_false]
    exact coarse_magWithin (cascadeMag_nonneg _ _ _) (by simp)
  magZero secs f fs _ h h0 := by
    simp only [coarse, h, if_false, h0, not_le.2 overflowBound_pos]
  colFreqFirst _ _ _ _ := rfl
  colFreqPoint _ _ _ _ _ := rfl
  colFreq fmin fmax x w h _ := by
    obtain ⟨⟨hf, h1, -⟩, -, hle, -⟩ := h
    have hge := le_colIdeal h1 hle x w
    refine ⟨hf, ?_, ?_⟩
    · have hn : isNaN fmin = false := by
        simp only [isFinite, isNaN, decide_eq_true_eq, decide_eq_false_iff_not] at *; omega
      have h0 : isNaN 0 = false := by decide
      have hk : f32Key 0 = 0 := by decide
      have hneg : f32Neg fmin = false := by
        by_contra hc
        simp only [Bool.not_eq_false] at hc
        have : val fmin ≤ 0 := by
          simp only [val, valUnits, hc, if_true]
          push_cast
          exact div_nonpos_of_nonpos_of_nonneg (by simp) (by positivity)
        linarith
      have hpos : 0 < f32Mag fmin := by
        by_contra hc
        have : f32Mag fmin = 0 := by omega
        have : val fmin = 0 := by simp [val, valUnits, hneg, this, magUnits]
        linarith
      simp only [coarse, f32Lt, hn, h0, hk, Bool.not_false, Bool.true_and, decide_eq_true_eq]
      simp only [f32Key, hneg, Bool.false_eq_true, if_false]
      omega
    · show |val fmin - colIdeal fmin fmax x w| ≤ 1 * colIdeal fmin fmax x w
      rw [abs_le]
      constructor <;> linarith
  colFreqMono _ _ _ _ _ _ _ _ := le_refl _
  binMag x win k _ := by
    show MagWithin (1 * (2 / x.length) * windowedSum x win) _ (if overflowBound ≤ binIdeal x win k then posInf else 0)
    rw [one_mul]
    exact coarse_magWithin (binIdeal_nonneg x win k) (binIdeal_le x win k)
  dbZero := rfl
  dbInf := by simp [coarse, posInf]
  dbOne := by simp [coarse, posInf, f32One]
  db m hf hp := by
    have h0 : m ≠ 0 := by rintro rfl; exact absurd hp (by decide)
    have hi : m ≠ posInf := by rintro rfl; exact absurd hf (by decide)
    simp only [coarse, h0, hi, if_false]
    refine ⟨by decide, ?_⟩
    rw [val_zero, zero_sub, abs_neg]
    exact decibels_bound hf hp
  dbMono m1 m2 h1 h2 h := by
    have key : ∀ m : Word, m.toNat ≤ 0x7F800000 → f32Key m = m.toNat := by
      intro m hm
      have a : f32Neg m = false := by simp [f32Neg]; omega
      simp only [f32Key, a, Bool.false_eq_true, if_false, f32Mag]
      omega
    rw [key m1 h1, key m2 h2] at h
    have kn : f32Key negInf = -0x7F800000 := by decide
    have kp : f32Key posInf = 0x7F800000 := by decide
    have kz : f32Key 0 = 0 := by decide
    simp only [coarse]
    by_cases a1 : m1 = 0
    · rw [if_pos a1, kn]
      split
      · rw [kn]
      · split
        · rw [kp]; decide
        · rw [kz]; decide
    · have a2 : m2 ≠ 0 := by
        rintro rfl
        apply a1
        apply BitVec.eq_of_toNat_eq
        simp at h ⊢
        omega
      rw [if_neg a1, if_neg a2]
      by_cases b1 : m1 = posInf
      · have b2 : m2 = posInf := by
          apply BitVec.eq_of_toNat_eq
          have : posInf.toNat = 0x7F800000 := by decide
          have := congrArg BitVec.toNat b1
          unfold LegalDb at h2
          omega
        rw [if_pos b1, if_pos b2]
      · rw [if_neg b1, kz]
        split
        · rw [kp]; decide
        · rw [kz]

theorem legalNumerics_nonempty : Nonempty LegalNumerics :=
  ⟨⟨coarse, _, by simp [Eps.NonNeg], coarse_meets⟩⟩

end Sys2Proof.Ideal
end

