-- ==== Sys2Proof/Machine/Numerics.lean ====
section
/-! DEFINITION. The numerics configuration `NX` as the commands call it (40_command_execution.md R145 to R150). What R146
and R147 fix exactly and the operands' bits decide is computed here; on the operands of R145 that agrees with every legal
`NX`, and every other result is the configuration's (log 7). -/

namespace Sys2Proof.Machine

/-- The numerics configuration of an instance (00_scope.md R6): `NX_ref`, which nothing but its type identifies here, or
a free value among the legal ones (log 7, log 26). -/
def numericsOf : NxName → Numerics
  | .reference => (@Config.free { nx : Numerics // nx = Ideal.nxRef } ⟨@anElement _ ⟨⟨Ideal.nxRef, rfl⟩⟩⟩ 0).val
  | .other id => (@Config.free Ideal.LegalNumerics ⟨@anElement _ Ideal.legalNumerics_nonempty⟩ id).val

/-- The numerics configuration of the reference instance is `NX_ref` (00_scope.md R6; 40_command_execution.md R145). -/
theorem numericsOf_reference : numericsOf .reference = Ideal.nxRef :=
  (@Config.free { nx : Numerics // nx = Ideal.nxRef } ⟨@anElement _ ⟨⟨Ideal.nxRef, rfl⟩⟩⟩ 0).property

/-- Every other configuration is legal (00_scope.md R6). -/
theorem numericsOf_other (id : Nat) :
    ∃ e : Ideal.Eps, Ideal.Eps.NonNeg e ∧ Ideal.Meets (numericsOf (.other id)) e :=
  (@Config.free Ideal.LegalNumerics ⟨@anElement _ Ideal.legalNumerics_nonempty⟩ id).property

/-! ## Operands and results -/

/-- An operand is used through its value, and `val(−0) = val(+0)`: a configuration sees one zero.
DEDUCED from 40_command_execution.md R150 and 42_magnitude_response.md R205, which do not say it of a result (log 27). -/
def sameZero (v : Word) : Word := if v = 0x80000000 then 0 else v

/-- `sameZero` of each coefficient. -/
def Coefs.sameZero (c : Coefs) : Coefs :=
  { b0 := Machine.sameZero c.b0, b1 := Machine.sameZero c.b1, b2 := Machine.sameZero c.b2,
    a1 := Machine.sameZero c.a1, a2 := Machine.sameZero c.a2 }

/-- A finite result; nothing changes on the operands of R145, where R146 and R147 make it finite (log 13). -/
def asFinite (v : Word) : Word := if isFinite v then v else 0

/-- Five finite results (log 13). -/
def Coefs.asFinite (c : Coefs) : Coefs :=
  { b0 := Machine.asFinite c.b0, b1 := Machine.asFinite c.b1, b2 := Machine.asFinite c.b2,
    a1 := Machine.asFinite c.a1, a2 := Machine.asFinite c.a2 }

/-- A result that is `+0`, positive finite or `+Inf` (log 13). -/
def asMagnitude (v : Word) : Word := if v.toNat ≤ 0x7F800000 then v else 0

/-- A result that is positive finite (log 13). -/
def asPositive (v : Word) : Word := if 0 < v.toNat ∧ v.toNat < 0x7F800000 then v else 1

/-! ## Coefficient design -/

/-- `NX.hp`: finite coefficients (40_command_execution.md R146). -/
def nxHp (nx : NxName) (fc fs : Word) (o j : Nat) : Coefs := Coefs.asFinite ((numericsOf nx).hp fc fs o j)

/-- `NX.lp`: finite coefficients (40_command_execution.md R146). -/
def nxLp (nx : NxName) (fc fs : Word) (o j : Nat) : Coefs := Coefs.asFinite ((numericsOf nx).lp fc fs o j)

/-- `NX.pk`: finite coefficients (40_command_execution.md R146). DEDUCED: by R150 a `−0` gain gives the result of `+0`
(log 27). -/
def nxPk (nx : NxName) (fc g q fs : Word) : Coefs := Coefs.asFinite ((numericsOf nx).pk fc (sameZero g) q fs)

/-! ## Magnitude response -/

/-- The order of the evaluation point `z = e^(2πi·f/fs)` (42_magnitude_response.md R200) as a root of unity: the
denominator of `f/fs` in lowest terms. -/
def circleOrder (f fs : Word) : Nat :=
  (valUnits fs).natAbs / Nat.gcd (valUnits f).natAbs (valUnits fs).natAbs

/-- Whether `c0 + c1·z⁻¹ + c2·z⁻² = 0` at a primitive root of unity of order `q`, the coefficients in one common unit.
DEDUCED: a real quadratic with rational coefficients vanishes at such a point only if it is zero or `q` is 1, 2, 3, 4
or 6, where the root's own polynomial decides (log 8). -/
def quadVanishes (q : Nat) (c0 c1 c2 : Int) : Bool :=
  (c0 == 0 && c1 == 0 && c2 == 0) ||
  (q == 1 && c0 + c1 + c2 == 0) ||
  (q == 2 && c0 - c1 + c2 == 0) ||
  (q == 3 && c0 == c1 && c1 == c2) ||
  (q == 4 && c1 == 0 && c0 == c2) ||
  (q == 6 && c0 == c2 && c1 == -c0)

/-- `Dn(z) = 0`: the section has a pole at `f` (42_magnitude_response.md R201). -/
def sectionHasPole (f fs : Word) (c : Coefs) : Bool :=
  quadVanishes (circleOrder f fs) unitsPerOne (valUnits c.a1) (valUnits c.a2)

/-- `Nm(z) = 0`: the section's magnitude is 0 at `f` (42_magnitude_response.md R201). -/
def sectionHasZero (f fs : Word) (c : Coefs) : Bool :=
  quadVanishes (circleOrder f fs) (valUnits c.b0) (valUnits c.b1) (valUnits c.b2)

/-- `NX.mag`: `QNAN` where some section has a pole, `+0` where the ideal magnitude is 0, else `+0`, positive or `+Inf`, the
last exactly where `rne32` of the ideal is (40_command_execution.md R146; 42_magnitude_response.md R202). DEDUCED: by
R150 a `−0` frequency or coefficient gives the result of `+0` (log 27). -/
def nxMag (nx : NxName) (secs : List Coefs) (f fs : Word) : Word :=
  if secs.any (sectionHasPole f fs) then qnan
  else if secs.any (sectionHasZero f fs) then 0
  else asMagnitude ((numericsOf nx).mag (secs.map Coefs.sameZero) (sameZero f) fs)

/-- `NX.colFreq`: `fmin` at column 0, `a` for the range `[a, a]`, positive finite, and non-decreasing in `x`
(40_command_execution.md R146). The greatest result up to `x` is taken, which leaves a legal `NX` as it is (log 10). -/
def nxColFreq (nx : NxName) (fmin fmax : Word) (x w : Nat) : Word :=
  match x with
  | 0 => fmin
  | y + 1 =>
    if fmin = fmax then fmin
    else BitVec.ofNat 32
      (max (nxColFreq nx fmin fmax y w).toNat (asPositive ((numericsOf nx).colFreq fmin fmax (y + 1) w)).toNat)

/-! ## Spectral analyzer -/

/-- The window of 43_spectral_analyzer.md R230 is 0 at sample `n` of `len`: only the two ends of Hann. -/
def windowIsZeroAt (win len n : Nat) : Bool := win == 1 && (n == 0 || n + 1 == len)

/-- Every windowed sample is 0, so that `Σ |x_n|·w_n = 0` and R146 fixes the bin magnitude at `+0`. -/
def windowedSilence (x : List Word) (win : Nat) : Bool :=
  (List.range x.length).all fun n => windowIsZeroAt win x.length n || f32Mag (x.getD n 0) == 0

/-- `Σ u_k` of 43_spectral_analyzer.md R230 times `windowSumScale win`, in closed form. -/
def windowSumScaled (win len : Nat) : Nat :=
  if win = 0 then len else if win = 1 then len - 1 else 35875 * len - 35869

/-- The scale of `windowSumScaled`. -/
def windowSumScale (win : Nat) : Nat := if win = 0 then 1 else if win = 1 then 2 else 100000

/-- The magnitude from which `rne32` gives `+Inf`, `2^128·(1 − 2^-25)` (00_scope.md R10), in units of `2^-149`. -/
def overflowUnits : Nat := 2 ^ 252 * (2 ^ 25 - 1)

/-- The sum of `|val(x_n)|`, in units of `2^-149`. -/
def sumAbsUnits (x : List Word) : Nat := (x.map fun v => magUnits (f32Mag v)).sum

/-- DEDUCED: since `w_n ≤ N / Σ u_k`, no bin magnitude exceeds `2·Σ|x_n| / Σ u_k`; below the overflow threshold
`rne32(m_k)` is finite, and so is the result (40_command_execution.md R146; log 9). A test for claims; the machine does
not need it. -/
def binCannotOverflow (x : List Word) (win : Nat) : Bool :=
  2 * sumAbsUnits x * windowSumScale win < overflowUnits * windowSumScaled win x.length

/-- DEDUCED: bin 0 under the rectangular window is exactly `|Σ x_n|·2/N`, so its overflow is decided by the samples
(43_spectral_analyzer.md R231; log 9). -/
def binZeroOverflows (x : List Word) (win k : Nat) : Bool :=
  win == 0 && k == 0 && overflowUnits * x.length ≤ 2 * ((x.map valUnits).sum).natAbs

/-- `NX.binMag`: `+0` for silence, else `+0`, positive or `+Inf`, the last exactly where `rne32` of the ideal is
(40_command_execution.md R146; 43_spectral_analyzer.md R231). DEDUCED: by R150 a `−0` sample gives the result of `+0` (log 27). -/
def nxBinMag (nx : NxName) (x : List Word) (win k : Nat) : Word :=
  if windowedSilence x win then 0
  else if binZeroOverflows x win k then posInf
  else asMagnitude ((numericsOf nx).binMag (x.map sameZero) win k)

/-! ## Decibels -/

/-- `NX.db`: `-Inf` at `+0`, `+Inf` at `+Inf`, `+0` at 1, else finite; non-decreasing (40_command_execution.md R147). -/
def nxDb (nx : NxName) (m : Word) : Word :=
  if m = 0 then negInf
  else if m = posInf then posInf
  else if m = f32One then 0
  else asFinite ((numericsOf nx).db m)

/-! ## The configuration as a whole -/

/-- The numerics configuration as the commands apply it (40_command_execution.md R145). -/
def numericsAsApplied (nx : NxName) : Numerics :=
  { hp := nxHp nx, lp := nxLp nx, pk := nxPk nx, mag := nxMag nx, colFreq := nxColFreq nx, binMag := nxBinMag nx,
    db := nxDb nx }

/-- The accuracy bounds `EPS_*` of an instance (00_scope.md R6; log 12). -/
noncomputable def NxName.eps : NxName → Ideal.Eps
  | .reference => Ideal.refEps
  | .other id => Classical.choose (numericsOf_other id)

/-- The tolerance of the source's peak test, ±0.05 dB over the whole chain from coefficients to decibels: a peak of 6 dB
and Q 1 at 1000 Hz, at 44100 Hz, seen at its centre. A configuration used for that test keeps it
(40_command_execution.md R146; 42_magnitude_response.md R208). -/
def KeepsSourceTolerance (nx : NxName) : Prop :=
  |Ideal.val (nxDb nx (nxMag nx [nxPk nx 0x447A0000 0x40C00000 0x3F800000 0x472C4400] 0x447A0000 0x472C4400)) - 6|
    ≤ 1 / 20

end Sys2Proof.Machine
end

