-- ==== Sys2Proof/Machine/Flags.lean ====
section
/-! DEFINITION. The flags: the six sticky bits of `STATUS` (10_state.md R33, R39). -/

namespace Sys2Proof.Machine

/-- The bits of `STATUS` (10_state.md R39). -/
inductive Flag where
  | err | clamped | ovf0 | ovf1 | nonfinite | busErr
  deriving DecidableEq, Repr

/-- The place of each bit (10_state.md R39). -/
def flagBit : Flag → Nat
  | .err => 0
  | .clamped => 1
  | .ovf0 => 2
  | .ovf1 => 3
  | .nonfinite => 4
  | .busErr => 5

/-- A flag as a word with that one bit. -/
def flagMask (f : Flag) : Word := BitVec.twoPow 32 (flagBit f)

/-- The defined bits of `STATUS` (10_state.md R39). -/
def statusMask : Word := 0x3F

/-- Setting a bit; bits are sticky (10_state.md R39). -/
def statusSet (st : Word) (f : Flag) : Word := st ||| flagMask f

/-- `hostWrite(STATUS, v)`: a written 1 clears its bit, and reserved bits ignore the write (10_state.md R39). -/
def statusW1c (st v : Word) : Word := st &&& ~~~(v &&& statusMask)

/-- `OVFc`, bit `2 + c` (43_spectral_analyzer.md R233). -/
def overflowFlag : Channel → Flag
  | .c0 => .ovf0
  | .c1 => .ovf1

end Sys2Proof.Machine
end

