-- ==== Sys2Proof/Machine/Ops.lean ====
section
/-! DEFINITION. The named operations over the state: single-field updates, channels, the byte memory behind the buffers,
the recording of events (the SRB's only exceptions: rejection R142, clamp R143, bus error R273) and reset (R301). -/

namespace Sys2Proof.Machine

/-! ## Updates -/

/-- `RESULT <- w` (10_state.md R42). -/
def State.setResult (s : State) (w : Word) : State := { s with result := w }

/-- `STATUS <- w` (10_state.md R39). -/
def State.setStatus (s : State) (w : Word) : State := { s with status := w }

/-- `ERRCODE[7:0] <- b` (10_state.md R40). -/
def State.setErrcode (s : State) (b : Byte) : State := { s with errcode := b }

/-- The coefficient store after a command (10_state.md R54). -/
def State.setCoef (s : State) (c : Vector Coefs 9) : State := { s with coef := c }

/-- `reg(BYPASS) <- w` (10_state.md R50). -/
def State.setBypass (s : State) (w : Word) : State := { s with bypass := w }

/-- The buffers after a write. -/
def State.setMem (s : State) (m : Memory) : State := { s with mem := m }

/-- The host after a statement. -/
def State.setHost (s : State) (h : HostPort) : State := { s with host := h }

/-- The queue, freshness and drops of channel `c`. -/
def State.chan (s : State) : Channel → Chan
  | .c0 => s.ch0
  | .c1 => s.ch1

/-- Replaces the queue, freshness and drops of channel `c`; the other channel is unchanged. -/
def State.setChan (s : State) (c : Channel) (x : Chan) : State :=
  match c with
  | .c0 => { s with ch0 := x }
  | .c1 => { s with ch1 := x }

/-- `STATUS.f <- 1` (10_state.md R39). -/
def State.setFlag (s : State) (f : Flag) : State := State.setStatus s (statusSet s.status f)

/-! ## The events that are recorded -/

/-- `raise CmdError(code)`: `STATUS.ERR <- 1` and `ERRCODE <- code`, nothing else (40_command_execution.md R142). -/
def State.reject (s : State) (e : ErrCode) : State := State.setErrcode (State.setFlag s .err) e.code

/-- `record Clamp(code)`: `STATUS.CLAMPED <- 1` and `ERRCODE <- code` (40_command_execution.md R143). -/
def State.recordClamp (s : State) (e : ErrCode) : State := State.setErrcode (State.setFlag s .clamped) e.code

/-- `raise BusError(addr)`: `STATUS.BUSERR <- 1` and `ERRCODE <- 0x07`, nothing else of the SRB (60_exceptions.md R273). -/
def State.recordBusError (s : State) : State := State.setErrcode (State.setFlag s .busErr) ErrCode.busError.code

/-- `note NonFinite`, when there is something to note (00_scope.md R13). -/
def State.noteNonFinite (s : State) (met : Bool) : State := if met then State.setFlag s .nonfinite else s

/-- `CTRL.STRICT`, bit 0 (10_state.md R37). -/
def State.strict (s : State) : Bool := s.ctrl.getLsbD 0

/-- `CTRL.WIN`, bits 2:1 (10_state.md R37). -/
def State.win (s : State) : Nat := (s.ctrl.extractLsb' 1 2).toNat

/-- `classD(code, legal_value)`: a legal operand goes on; an illegal one rejects the command when STRICT is 1, and else
is recorded as clamped and the command goes on with the legal value (40_command_execution.md R143). -/
def classD {α : Type} (s : State) (isLegal : Bool) (e : ErrCode) (operand legal : α) (go : α → State → State) : State :=
  if isLegal then go operand s
  else if s.strict then State.reject s e
  else go legal (State.recordClamp s e)

/-- A reset from any source: every element of 10_state.md R30 to its reset value; the build parameters stay, and so does
the host, which is no part of the block (70_reset_and_hazards.md R300, R301). -/
def State.resetBlock (s : State) : State := State.setHost (State.resetOf s.build) s.host

/-! ## The byte memory behind the buffers -/

/-- The reset contents of the byte at a window offset: the FOUT regions hold `0xC2400000` in every word, low byte first,
every other buffer 0 (10_state.md R57, R58, R60, R61; 20_memory.md R83). An unlisted byte reads as this. -/
def initialByte (a : Nat) : Byte :=
  if 0x300000 ≤ a ∧ a < 0x380000 then
    if a % 4 = 3 then 0xC2 else if a % 4 = 2 then 0x40 else 0x00
  else 0x00

/-- The byte at a window offset. -/
def readByte (m : Memory) (a : Nat) : Byte := (m.lookup a).getD (initialByte a)

/-- The canonical cells of consecutive bytes from `a` on: a byte equal to its reset contents is not listed. -/
def blockCells (a : Nat) : List Byte → Memory
  | [] => []
  | b :: bs => if b = initialByte a then blockCells (a + 1) bs else (a, b) :: blockCells (a + 1) bs

/-- Stores consecutive bytes from `a` on. -/
def writeBlock (m : Memory) (a : Nat) (bs : List Byte) : Memory :=
  m.filter (fun c => c.1 < a) ++ blockCells a bs ++ m.filter (fun c => a + bs.length ≤ c.1)

/-- The word at a word-aligned offset, byte lane 0 lowest (20_memory.md R83). -/
def readWord (m : Memory) (a : Nat) : Word :=
  wordOfLanes (readByte m a) (readByte m (a + 1)) (readByte m (a + 2)) (readByte m (a + 3))

/-- `n` consecutive words from `a` on. -/
def readWords (m : Memory) (a n : Nat) : List Word := (List.range n).map fun i => readWord m (a + 4 * i)

/-- Stores consecutive words from `a` on. -/
def writeWords (m : Memory) (a : Nat) (ws : List Word) : Memory := writeBlock m a (ws.flatMap lanesOfWord)

/-- The canonical form: addresses strictly rising, and no entry equal to what an unlisted address reads as. -/
abbrev Memory.wf (m : Memory) : Prop :=
  m.Pairwise (fun c d => c.1 < d.1) ∧ ∀ c ∈ m, c.2 ≠ initialByte c.1

/-! ## The buffers -/

/-- The channel's number, 0 or 1. -/
def channelIndex : Channel → Nat
  | .c0 => 0
  | .c1 => 1

/-- The window offset of a buffer's first word (20_memory.md R81; 30_encoding.md R122). -/
def bufBase : Buf → Nat
  | .sb c => 0x100000 + 0x40000 * channelIndex c
  | .rw c => 0x200000 + 0x40000 * channelIndex c
  | .fout c => 0x300000 + 0x40000 * channelIndex c
  | .resp => 0x400000

/-- A buffer's length in words (20_memory.md R81). -/
def bufLen (b : Build) : Buf → Nat
  | .sb _ => Build.n b
  | .rw _ => Build.n b
  | .fout _ => Build.nb b
  | .resp => Build.wmax b

/-- All words of a buffer, index 0 first. -/
def readBuf (s : State) (b : Buf) : List Word := readWords s.mem (bufBase b) (bufLen s.build b)

/-- Stores words into a buffer from index 0 on. -/
def State.writeBuf (s : State) (b : Buf) (ws : List Word) : State :=
  State.setMem s (writeWords s.mem (bufBase b) ws)

end Sys2Proof.Machine
end

