-- ==== Sys2Proof/Machine/Operands.lean ====
section
/-! DEFINITION. The operands of the commands (30_encoding.md R112): channels, the class-(c) clamps of the design commands
(40_command_execution.md R144; 41_coefficient_design.md R171, R172, R174), the order and length ranges, and the sections
a command includes (10_state.md R56). -/

namespace Sys2Proof.Machine

/-- The channel a CH field names; 2 and 3 name none (30_encoding.md R117). -/
def channelOf (ch : Nat) : Option Channel :=
  if ch = 0 then some .c0 else if ch = 1 then some .c1 else none

/-- A channel command: BAD_CHANNEL unless CH names a channel (30_encoding.md R117; 40_command_execution.md R141). -/
def withChannel (s : State) (ch : Nat) (go : Channel → State) : State :=
  match channelOf ch with
  | some c => go c
  | none => State.reject s .badChannel

/-- `FHI = rne32(fs/2 − 1)` (41_coefficient_design.md R171). -/
def freqHigh (fs : Word) : Word := rne32 (valUnits fs - 2 * unitsPerOne) (2 * unitsPerOne)

/-- `clampFreq(v)`: NaN becomes 1, else the range `[1, FHI]` (41_coefficient_design.md R171). -/
def clampFreq (fs v : Word) : Word := if isNaN v then f32One else f32Clamp v f32One (freqHigh fs)

/-- `clampGain(v)`: NaN becomes `+0`, else the range `[-24, 24]` (41_coefficient_design.md R172). -/
def clampGain (v : Word) : Word := if isNaN v then 0 else f32Clamp v 0xC1C00000 0x41C00000

/-- `clampQ(v)`: NaN becomes 1, else the range `[0.1, 10]` (41_coefficient_design.md R174). -/
def clampQ (v : Word) : Word := if isNaN v then f32One else f32Clamp v 0x3DCCCCCD 0x41200000

/-- `1 ≤ o ≤ 4` (41_coefficient_design.md R173). -/
def orderLegal (o : Nat) : Bool := 1 ≤ o && o ≤ 4

/-- The legal order an illegal one is clamped to (41_coefficient_design.md R173). -/
def orderClamp (o : Nat) : Nat := if o = 0 then 1 else 4

/-- LC0 (10_state.md R54). -/
def firstLowcut : Nat := 0

/-- PK (10_state.md R54). -/
def peakSection : Nat := 4

/-- HC0 (10_state.md R54). -/
def firstHighcut : Nat := 5

/-- The BYPASS bit of a section's stage (10_state.md R50, R56). -/
def stageBit (i : Nat) : Nat := if i < 4 then 0 else if i = 4 then 1 else 2

/-- The BYPASS bit of a section (10_state.md R50, R54). -/
def sectionBit (i : Nat) : Nat := if i < 4 then 4 + i else if i = 4 then 8 else 7 + i

/-- A section is included when neither its stage nor the section is bypassed (10_state.md R56). -/
def included (bypass : Word) (i : Nat) : Bool :=
  !bypass.getLsbD (stageBit i) && !bypass.getLsbD (sectionBit i)

/-- `[COEF[s] for s in incl()]`: the included sections in increasing order (10_state.md R56). -/
def includedSections (s : State) : List Coefs :=
  ((List.finRange 9).filter fun i => included s.bypass i.val).map fun i => s.coef[i]

/-- Four section bits from bit `lo` on: bit `lo + j` is 1, bypassed, for `j ≥ o` and 0 below; the other bits stay
(41_coefficient_design.md R181, R183). -/
def setSectionBits (bypass : Word) (lo o : Nat) : Word :=
  (bypass &&& ~~~(0xF#32 <<< lo)) ||| (((0xF#32 <<< o) &&& 0xF#32) <<< lo)

/-- Sections `base` to `base + o - 1` rewritten, the others as they were (41_coefficient_design.md R179). -/
def writeSections (coef : Vector Coefs 9) (base o : Nat) (f : Nat → Coefs) : Vector Coefs 9 :=
  Vector.ofFn fun i => if base ≤ i.val ∧ i.val < base + o then f (i.val - base) else coef[i]

end Sys2Proof.Machine
end

