-- ==== Sys2Proof/Machine/Analyzer.lean ====
section
/-! DEFINITION. The spectral analyzer commands INGEST, PRODUCE, POP and CLEAR (43_spectral_analyzer.md). -/

namespace Sys2Proof.Machine

/-- The rolling window after a block: `(RW ++ block)[L .. L+N−1]` (43_spectral_analyzer.md R234). -/
def shiftIn (rw block : List Word) : List Word := (rw ++ block).drop block.length

/-- An accepted INGEST of `l ≤ N` samples; an empty block changes only RESULT (43_spectral_analyzer.md R234). -/
def ingestBlock (s : State) (c : Channel) (l : Nat) : State :=
  if l = 0 then State.setResult s 0
  else
    State.setResult
      (State.setChan
        (State.writeBuf s (.rw c) (shiftIn (readBuf s (.rw c)) ((readBuf s (.sb c)).take l)))
        c { State.chan s c with fresh := true })
      (BitVec.ofNat 32 l)

/-- INGEST: BAD_CHANNEL, then BAD_LENGTH when `L > N` (43_spectral_analyzer.md R234). -/
def execIngest (ch imm : Nat) (s : State) : Host.Outcome State Fault Refusal :=
  .next (withChannel s ch fun c =>
    classD s (imm ≤ Build.n s.build) .badLength imm (Build.n s.build) fun l t => ingestBlock t c l)

/-- One bin of a frame: an overflowed magnitude gives the floor, else its decibels over the floor
(43_spectral_analyzer.md R232). -/
def binDb (nx : NxName) (fl m : Word) : Word := if isInf m then fl else clampFloor fl (nxDb nx m)

/-- The bin magnitudes of a window of finite samples (43_spectral_analyzer.md R231, R232). -/
def binMags (s : State) (x : List Word) : List Word :=
  (List.range (Build.nb s.build)).map fun k => nxBinMag s.build.nx x s.win k

/-- `frameOf(c)`: the frame, and whether it met a non-finite sample or bin (43_spectral_analyzer.md R232). -/
def frameOf (s : State) (c : Channel) : Frame × Bool :=
  let x := readBuf s (.rw c)
  if x.all isFinite then ((binMags s x).map (binDb s.build.nx s.floorDb), (binMags s x).any isInf)
  else (List.replicate (Build.nb s.build) s.floorDb, true)

/-- `sat16(n)` (00_scope.md R15). -/
def sat16 (n : Nat) : Nat := min n 0xFFFF

/-- `enqueue(c, F)`: a full queue drops its head, counts the drop and sets OVFc; then `F` is appended
(43_spectral_analyzer.md R233). -/
def enqueue (s : State) (c : Channel) (f : Frame) : State :=
  let x := State.chan s c
  if x.fq.length = s.build.fqCap then
    State.setFlag
      (State.setChan s c
        { x with fq := x.fq.drop 1 ++ [f], drop := BitVec.ofNat 16 (sat16 (x.drop.toNat + 1)) })
      (overflowFlag c)
  else State.setChan s c { x with fq := x.fq ++ [f] }

/-- `FRESH[c] <- 0` (10_state.md R62). -/
def clearFresh (s : State) (c : Channel) : State :=
  State.setChan s c { State.chan s c with fresh := false }

/-- An accepted PRODUCE on a channel (43_spectral_analyzer.md R235). -/
def produceFrame (s : State) (c : Channel) : State :=
  if (State.chan s c).fresh then
    State.setResult
      (clearFresh (enqueue (State.noteNonFinite s (frameOf s c).2) c (frameOf s c).1) c) 1
  else State.setResult s 0

/-- PRODUCE (43_spectral_analyzer.md R235). -/
def execProduce (ch : Nat) (s : State) : Host.Outcome State Fault Refusal :=
  .next (withChannel s ch fun c => produceFrame s c)

/-- An accepted POP on a channel (43_spectral_analyzer.md R236). -/
def popFrame (s : State) (c : Channel) : State :=
  match (State.chan s c).fq with
  | [] => State.setResult s 0
  | f :: rest =>
    State.setResult
      (State.setChan (State.writeBuf s (.fout c) f) c { State.chan s c with fq := rest }) 1

/-- POP (43_spectral_analyzer.md R236). -/
def execPop (ch : Nat) (s : State) : Host.Outcome State Fault Refusal :=
  .next (withChannel s ch fun c => popFrame s c)

/-- An accepted CLEAR on a channel (43_spectral_analyzer.md R237). -/
def clearChannel (s : State) (c : Channel) : State :=
  State.setResult
    (State.setChan
      (State.writeBuf s (.rw c) (List.replicate (Build.n s.build) 0))
      c { fq := [], fresh := false, drop := 0 }) 0

/-- CLEAR (43_spectral_analyzer.md R237). -/
def execClear (ch : Nat) (s : State) : Host.Outcome State Fault Refusal :=
  .next (withChannel s ch fun c => clearChannel s c)

end Sys2Proof.Machine
end

