-- ==== Sys2Proof/Machine/Control.lean ====
section
/-! DEFINITION. The control commands NOP and RESET (40_command_execution.md R151, R152). -/

namespace Sys2Proof.Machine

/-- NOP: `RESULT <- 0` (40_command_execution.md R151). -/
def execNop (s : State) : Host.Outcome State Fault Refusal := .next (State.setResult s 0)

/-- RESET: every element of 10_state.md R30 to its reset value (40_command_execution.md R152). -/
def execReset (s : State) : Host.Outcome State Fault Refusal := .next (State.resetBlock s)

end Sys2Proof.Machine
end

