-- ==== Sys2Proof/Machine/Design.lean ====
section
/-! DEFINITION. The coefficient design commands (41_coefficient_design.md section 3). -/

namespace Sys2Proof.Machine

/-- BYPASS with every stage and section bypassed (10_state.md R50). -/
def bypassAll : Word := 0x0000F1F7

/-- A cut stage of legal order `o`: its first `o` sections written and included, its others bypassed with their
coefficients kept, the stage bit as it was (41_coefficient_design.md R181, R183). -/
def designCut (s : State) (base lo o : Nat) (f : Nat → Coefs) : State :=
  State.setResult
    (State.setBypass (State.setCoef s (writeSections s.coef base o f)) (setSectionBits s.bypass lo o)) 0

/-- CHAIN_RESET: COEF and BYPASS to their reset values, `RESULT <- 0` (41_coefficient_design.md R180). -/
def execChainReset (s : State) : Host.Outcome State Fault Refusal :=
  .next (State.setResult
    (State.setBypass (State.setCoef s (Vector.replicate 9 identityCoefs)) bypassAll) 0)

/-- DESIGN_LOWCUT (41_coefficient_design.md R181). -/
def execDesignLowcut (imm : Nat) (s : State) : Host.Outcome State Fault Refusal :=
  .next (classD s (orderLegal imm) .badOrder imm (orderClamp imm) fun o t =>
    designCut t firstLowcut 4 o fun j => nxHp t.build.nx (clampFreq t.sampleRate t.arg0) t.sampleRate o j)

/-- DESIGN_PEAK (41_coefficient_design.md R182). -/
def execDesignPeak (s : State) : Host.Outcome State Fault Refusal :=
  .next (State.setResult
    (State.setBypass
      (State.setCoef s (writeSections s.coef peakSection 1 fun _ =>
        nxPk s.build.nx (clampFreq s.sampleRate s.arg0) (clampGain s.arg1) (clampQ s.arg2) s.sampleRate))
      (s.bypass &&& ~~~(BitVec.twoPow 32 (sectionBit peakSection)))) 0)

/-- DESIGN_HIGHCUT (41_coefficient_design.md R183). -/
def execDesignHighcut (imm : Nat) (s : State) : Host.Outcome State Fault Refusal :=
  .next (classD s (orderLegal imm) .badOrder imm (orderClamp imm) fun o t =>
    designCut t firstHighcut 12 o fun j => nxLp t.build.nx (clampFreq t.sampleRate t.arg0) t.sampleRate o j)

end Sys2Proof.Machine
end

