-- ==== Sys2Proof/Machine/Response.lean ====
section
/-! DEFINITION. The magnitude response commands MAG_AT and SWEEP (42_magnitude_response.md). -/

namespace Sys2Proof.Machine

/-- `magEval(f)`: exactly 1 when no section is included, else `NX.mag` of the included sections
(42_magnitude_response.md R203). -/
def magEval (s : State) (f : Word) : Word :=
  match includedSections s with
  | [] => f32One
  | secs => nxMag s.build.nx secs f s.sampleRate

/-- MAG_AT: `QNAN` with NONFINITE for a non-finite frequency, else `magEval`, noting a NaN result
(42_magnitude_response.md R205, R203). -/
def execMagAt (s : State) : Host.Outcome State Fault Refusal :=
  .next (if isFinite s.arg0 then
      State.setResult (State.noteNonFinite s (isNaN (magEval s s.arg0))) (magEval s s.arg0)
    else State.setResult (State.noteNonFinite s true) qnan)

/-- The magnitude at column `x` of a sweep from `FMIN` to `hi` (42_magnitude_response.md R206). -/
def columnMag (s : State) (hi : Word) (x : Nat) : Word :=
  magEval s (nxColFreq s.build.nx s.fmin hi x s.width.toNat)

/-- The decibel value of a column's magnitude over the response floor (42_magnitude_response.md R206). -/
def columnDb (s : State) (m : Word) : Word :=
  clampFloor s.respFloorDb (if isNaN m then qnan else nxDb s.build.nx m)

/-- The magnitudes of all `WIDTH` columns. -/
def columnMags (s : State) (hi : Word) : List Word :=
  (List.range s.width.toNat).map (columnMag s hi)

/-- The columns of a sweep from `FMIN` to `hi`, written to RESP from index 0 on; `RESULT <- W`
(42_magnitude_response.md R206). -/
def sweepColumns (s : State) (hi : Word) : State :=
  State.setResult
    (State.noteNonFinite
      (State.writeBuf s .resp ((columnMags s hi).map (columnDb s)))
      ((columnMags s hi).any isNaN))
    s.width

/-- SWEEP: BAD_RANGE unless `FMIN < FMAX`, clamped to `hi = FMIN` (42_magnitude_response.md R206). -/
def execSweep (s : State) : Host.Outcome State Fault Refusal :=
  .next (classD s (f32Lt s.fmin s.fmax) .badRange s.fmax s.fmin fun hi t => sweepColumns t hi)

end Sys2Proof.Machine
end

