-- ==== Sys2Proof/Machine/Dispatch.lean ====
section
/-! DEFINITION. One arm per command of spec/opcode_table.json, each a direct call of its meaning. -/

namespace Sys2Proof.Machine

-- `execute(opc, ch, imm)` of 40_command_execution.md R141.
def exec (i : Instr) (s : State) : Host.Outcome State Fault Refusal :=
  match i with
  | .nop => Sys2Proof.Machine.execNop s
  | .reset => Sys2Proof.Machine.execReset s
  | .chainReset => Sys2Proof.Machine.execChainReset s
  | .designLowcut imm => Sys2Proof.Machine.execDesignLowcut imm s
  | .designPeak => Sys2Proof.Machine.execDesignPeak s
  | .designHighcut imm => Sys2Proof.Machine.execDesignHighcut imm s
  | .magAt => Sys2Proof.Machine.execMagAt s
  | .sweep => Sys2Proof.Machine.execSweep s
  | .ingest ch imm => Sys2Proof.Machine.execIngest ch imm s
  | .produce ch => Sys2Proof.Machine.execProduce ch s
  | .pop ch => Sys2Proof.Machine.execPop ch s
  | .clear ch => Sys2Proof.Machine.execClear ch s

end Sys2Proof.Machine
end

