-- ==== Sys2Proof/Machine/Registers.lean ====
section
/-! DEFINITION. The control and status registers as the host reads and writes them (10_state.md section 3). -/

namespace Sys2Proof.Machine

/-- `FQSTAT` (10_state.md R51). -/
def fqstatWord (s : State) : Word :=
  BitVec.ofNat 32 (s.ch0.fq.length % 0x100 + 0x100 * (s.ch1.fq.length % 0x100)
    + 0x10000 * s.ch0.fresh.toNat + 0x20000 * s.ch1.fresh.toNat)

/-- `DROPCNT` (10_state.md R52). -/
def dropcntWord (s : State) : Word := BitVec.ofNat 32 (s.ch0.drop.toNat + 0x10000 * s.ch1.drop.toNat)

/-- `BIN_WIDTH = rne32(val(SAMPLE_RATE) / N)` (10_state.md R53). -/
def binWidthWord (s : State) : Word := rne32 (valUnits s.sampleRate) (unitsPerOne * Build.n s.build)

/-- The value a host read of a register returns (10_state.md R34 to R53; CMD reads 0, R41). -/
def regRead (s : State) : Reg → Word
  | .id => 0x53524231
  | .version => 0x00000001
  | .cfg => Build.cfgWord s.build
  | .ctrl => s.ctrl
  | .status => s.status
  | .errcode => s.errcode.setWidth 32
  | .cmd => 0
  | .result => s.result
  | .arg0 => s.arg0
  | .arg1 => s.arg1
  | .arg2 => s.arg2
  | .sampleRate => s.sampleRate
  | .floorDb => s.floorDb
  | .respFloorDb => s.respFloorDb
  | .fmin => s.fmin
  | .fmax => s.fmax
  | .width => s.width
  | .bypass => s.bypass
  | .fqstat => fqstatWord s
  | .dropcnt => dropcntWord s
  | .binWidth => binWidthWord s

/-- `hostWrite(CTRL, v)`: STRICT from bit 0; WIN from bits 2:1 unless they are 3 (10_state.md R37, R38). -/
def ctrlWrite (old v : Word) : Word :=
  if v &&& 6 = 6 then (old &&& 6) ||| (v &&& 1) else v &&& 7

/-- A legalised `f32` write: a NaN is ignored, any other value is clamped into the range (10_state.md R44, R45, R47). -/
def rangeWrite (old v lo hi : Word) : Word := if isNaN v then old else f32Clamp v lo hi

/-- `FLOAT(1000)`, the least SAMPLE_RATE (10_state.md R44). -/
def sampleRateLow : Word := 0x447A0000

/-- `FLOAT(768000)`, the greatest SAMPLE_RATE (10_state.md R44). -/
def sampleRateHigh : Word := 0x493B8000

/-- `FLOAT(-240)`, the least floor (10_state.md R45). -/
def floorLow : Word := 0xC3700000

/-- `FLOAT(0)`, the greatest floor (10_state.md R45). -/
def floorHigh : Word := 0x00000000

/-- `FLOAT(1)`, the least sweep frequency (10_state.md R47). -/
def sweepFreqLow : Word := 0x3F800000

/-- `FLOAT(1000000)`, the greatest sweep frequency (10_state.md R47). -/
def sweepFreqHigh : Word := 0x49742400

/-- `hostWrite(WIDTH, v) = min(v, WMAX)` (10_state.md R49). -/
def widthWrite (b : Build) (v : Word) : Word := BitVec.ofNat 32 (min v.toNat (Build.wmax b))

/-- The defined bits of BYPASS (10_state.md R50). -/
def bypassMask : Word := 0x0000F1F7

/-- `hostWrite(R, v)` (10_state.md R34 to R53). A read-only register ignores the write (20_memory.md R85); a write to CMD
stores nothing, and its command is issued by the bus (R41). -/
def hostWriteReg (s : State) (r : Reg) (v : Word) : State :=
  match r with
  | .ctrl => { s with ctrl := ctrlWrite s.ctrl v }
  | .status => State.setStatus s (statusW1c s.status v)
  | .arg0 => { s with arg0 := v }
  | .arg1 => { s with arg1 := v }
  | .arg2 => { s with arg2 := v }
  | .sampleRate => { s with sampleRate := rangeWrite s.sampleRate v sampleRateLow sampleRateHigh }
  | .floorDb => { s with floorDb := rangeWrite s.floorDb v floorLow floorHigh }
  | .respFloorDb => { s with respFloorDb := rangeWrite s.respFloorDb v floorLow floorHigh }
  | .fmin => { s with fmin := rangeWrite s.fmin v sweepFreqLow sweepFreqHigh }
  | .fmax => { s with fmax := rangeWrite s.fmax v sweepFreqLow sweepFreqHigh }
  | .width => { s with width := widthWrite s.build v }
  | .bypass => State.setBypass s (v &&& bypassMask)
  | .id | .version | .cfg | .errcode | .cmd | .result | .fqstat | .dropcnt | .binWidth => s

end Sys2Proof.Machine
end

