-- ==== Sys2Proof/Machine/Bus.lean ====
section
/-! DEFINITION. The host bus interface: the region map, loads and stores, bus errors, and the issue of a command
(20_memory.md; 40_command_execution.md R140, R141). -/

namespace Sys2Proof.Machine

/-- What one host statement asks of the machine: it is done, it runs a command, or it has no meaning. -/
inductive HostAction where
  | done (t : State)
  | run (i : Instr) (t : State)
  | stop (r : Refusal)
  deriving DecidableEq, Repr

/-- The offset of each register (10_state.md section 3). -/
def regOffset : Reg → Nat
  | .id => 0x000
  | .version => 0x004
  | .cfg => 0x008
  | .ctrl => 0x00C
  | .status => 0x010
  | .errcode => 0x014
  | .cmd => 0x018
  | .result => 0x01C
  | .arg0 => 0x020
  | .arg1 => 0x024
  | .arg2 => 0x028
  | .sampleRate => 0x030
  | .floorDb => 0x034
  | .respFloorDb => 0x038
  | .fmin => 0x03C
  | .fmax => 0x040
  | .width => 0x044
  | .bypass => 0x048
  | .fqstat => 0x04C
  | .dropcnt => 0x050
  | .binWidth => 0x054

/-- The register at an aligned offset below 0x100; 0x02C and 0x058 to 0x0FF are reserved (10_state.md section 3). -/
def regAt (off : Nat) : Option Reg :=
  match off with
  | 0x000 => some .id
  | 0x004 => some .version
  | 0x008 => some .cfg
  | 0x00C => some .ctrl
  | 0x010 => some .status
  | 0x014 => some .errcode
  | 0x018 => some .cmd
  | 0x01C => some .result
  | 0x020 => some .arg0
  | 0x024 => some .arg1
  | 0x028 => some .arg2
  | 0x030 => some .sampleRate
  | 0x034 => some .floorDb
  | 0x038 => some .respFloorDb
  | 0x03C => some .fmin
  | 0x040 => some .fmax
  | 0x044 => some .width
  | 0x048 => some .bypass
  | 0x04C => some .fqstat
  | 0x050 => some .dropcnt
  | 0x054 => some .binWidth
  | _ => none

/-- The coefficient at word `i` of the store: section `i / 8`, words 5 to 7 of a section read 0 (20_memory.md R81). -/
def coefAt (i : Nat) : Loc :=
  if h : i / 8 < 9 then
    match i % 8 with
    | 0 => .coef ⟨i / 8, h⟩ .b0
    | 1 => .coef ⟨i / 8, h⟩ .b1
    | 2 => .coef ⟨i / 8, h⟩ .b2
    | 3 => .coef ⟨i / 8, h⟩ .a1
    | 4 => .coef ⟨i / 8, h⟩ .a2
    | _ => .reserved
  else .reserved

/-- The buffer of each 256 KiB block of the window, if any (20_memory.md R81). -/
def bufAt (block : Nat) : Option Buf :=
  match block with
  | 0x04 => some (.sb .c0)
  | 0x05 => some (.sb .c1)
  | 0x08 => some (.rw .c0)
  | 0x09 => some (.rw .c1)
  | 0x0C => some (.fout .c0)
  | 0x0D => some (.fout .c1)
  | 0x10 => some .resp
  | _ => none

/-- The region map (20_memory.md R81) at an aligned offset of the window. -/
def locate (off : Nat) : Loc :=
  if off < 0x100 then
    match regAt off with
    | some r => .reg r
    | none => .reserved
  else if 0x200 ≤ off ∧ off < 0x320 then coefAt ((off - 0x200) / 4)
  else
    match bufAt (off / 0x40000) with
    | some b => .buf b (off % 0x40000 / 4)
    | none => .reserved

/-- One coefficient of a section (10_state.md R54). -/
def coefWord (c : Coefs) : CoefName → Word
  | .b0 => c.b0
  | .b1 => c.b1
  | .b2 => c.b2
  | .a1 => c.a1
  | .a2 => c.a2

/-- `word_at(a)`: what a host load of a location returns (20_memory.md R89); reserved words and indices past a buffer's
length read 0 (R84). -/
def loadLoc (s : State) : Loc → Word
  | .reg r => regRead s r
  | .coef i k => coefWord s.coef[i] k
  | .buf b i => if i < bufLen s.build b then readWord s.mem (bufBase b + 4 * i) else 0
  | .reserved => 0

/-- `store_at(a, v)`: what a host store does to a location other than CMD (20_memory.md R88): a register's legalised
write, a staging word verbatim, and nothing at a read-only or reserved location (R84, R85). -/
def storeLoc (s : State) (l : Loc) (v : Word) : State :=
  match l with
  | .reg r => hostWriteReg s r v
  | .buf (.sb c) i =>
    if i < bufLen s.build (.sb c) then State.setMem s (writeWords s.mem (bufBase (.sb c) + 4 * i) [v]) else s
  | .buf (.rw _) _ => s
  | .buf (.fout _) _ => s
  | .buf .resp _ => s
  | .coef _ _ => s
  | .reserved => s

/-- The SRB accepts a 32-bit access at an offset that is a multiple of 4 (20_memory.md R82). -/
def accepted (off size : Nat) : Bool := size == 4 && off % 4 == 0

/-- `issue(v)`: the decoder's two checks reject; a decoded command runs (40_command_execution.md R141). -/
def issue (s : State) (v : Word) : HostAction :=
  match decode v with
  | .error e => .done (State.reject s e)
  | .ok i => .run i s

/-- The host after a read: the word goes to its last-read value (30_encoding.md R120). -/
def State.answerRead (s : State) (w : Word) (error : Bool) : State :=
  State.setHost s { s.host with lastRead := w, errorResponse := error }

/-- The host after a write. -/
def State.answerWrite (s : State) (error : Bool) : State :=
  State.setHost s { s.host with errorResponse := error }

/-- `MemRead` (20_memory.md R89, R90); a bus error returns 0 (R82). -/
def busRead (s : State) (off size : Nat) : HostAction :=
  if accepted off size then .done (State.answerRead s (loadLoc s (locate off)) false)
  else .done (State.answerRead (State.recordBusError s) 0 true)

/-- `MemWrite` (20_memory.md R88, R90): a write to CMD issues a command (10_state.md R41); a bus error stores nothing. -/
def busWrite (s : State) (off size : Nat) (v : Word) : HostAction :=
  if accepted off size then
    if off = regOffset .cmd then issue (State.answerWrite s false) v
    else .done (storeLoc (State.answerWrite s false) (locate off) v)
  else .done (State.answerWrite (State.recordBusError s) true)

/-- An access at a platform address: refused while reset is held (70_reset_and_hazards.md R300, ID-9) and outside the
window (log 6); else served at its offset (20_memory.md R80). -/
def onWindow (s : State) (addr : Nat) (serve : Nat → HostAction) : HostAction :=
  if s.host.resetHeld then .stop .accessDuringReset
  else
    match windowOffset s.build addr with
    | some off => serve off
    | none => .stop .outsideWindow

end Sys2Proof.Machine
end

