-- ==== Sys2Proof/Machine/HostProgram.lean ====
section
/-! DEFINITION. The host program: what each statement does (30_encoding.md R120, R123), and the notation's locations and
pseudo-instructions as lists of statements (R120 to R122). -/

namespace Sys2Proof.Machine

/-- The host goes on to its next statement. -/
def State.nextStmt (s : State) : State := State.setHost s { s.host with index := s.host.index + 1 }

/-- The host continues at the statement of a label (30_encoding.md R123). -/
def State.jumpTo (s : State) (target : Nat) : State := State.setHost s { s.host with index := target }

/-- The platform's reset input, asserted: the reset of R301, held until released (70_reset_and_hazards.md R300). -/
def State.assertReset (s : State) : State :=
  State.setHost (State.resetBlock s) { s.host with resetHeld := true }

/-- The platform's reset input, released: the block is ready at once (70_reset_and_hazards.md R300). -/
def State.releaseReset (s : State) : State := State.setHost s { s.host with resetHeld := false }

/-- What one statement does. `halt` ends the program: the host stays at it (log 19). -/
def stmtAction (s : State) : HostStmt → HostAction
  | .write addr size v => onWindow s addr fun off => busWrite (State.nextStmt s) off size v
  | .read addr size => onWindow s addr fun off => busRead (State.nextStmt s) off size
  | .bnz target => .done (if s.host.lastRead = 0 then State.nextStmt s else State.jumpTo s target)
  | .bz target => .done (if s.host.lastRead = 0 then State.jumpTo s target else State.nextStmt s)
  | .jmp target => .done (State.jumpTo s target)
  | .halt => .done s
  | .assertReset => .done (State.assertReset (State.nextStmt s))
  | .releaseReset => .done (State.releaseReset (State.nextStmt s))

/-- What the host does next: its statement, or nothing when its program has ended (log 19). -/
def hostAction (s : State) : HostAction :=
  match s.host.program[s.host.index]? with
  | some st => stmtAction s st
  | none => .done s

/-! ## The notation -/

/-- The place of a coefficient's word in its section (30_encoding.md R122). -/
def coefNumber : CoefName → Nat
  | .b0 => 0
  | .b1 => 1
  | .b2 => 2
  | .a1 => 3
  | .a2 => 4

/-- The offset of a location (30_encoding.md R122); a reserved location has no name, and 0x02C stands for one. -/
def locOffset : Loc → Nat
  | .reg r => regOffset r
  | .coef i k => 0x200 + 0x20 * i.val + 4 * coefNumber k
  | .buf b i => bufBase b + 4 * i
  | .reserved => 0x02C

/-- `WR loc, v` (30_encoding.md R120). -/
def asmWr (b : Build) (l : Loc) (v : Word) : HostStmt := .write (b.srbBase + locOffset l) 4 v

/-- `RD loc` (30_encoding.md R120). -/
def asmRd (b : Build) (l : Loc) : HostStmt := .read (b.srbBase + locOffset l) 4

/-- A command mnemonic: its encoding written to CMD (30_encoding.md R120). -/
def asmCmd (b : Build) (i : Instr) : HostStmt := asmWr b (.reg .cmd) (encode i)

/-- `LOWCUT f, o` with `f` given as its word (30_encoding.md R121). -/
def asmLowcut (b : Build) (f : Word) (o : Nat) : List HostStmt :=
  [asmWr b (.reg .arg0) f, asmCmd b (.designLowcut o)]

/-- `HIGHCUT f, o` (30_encoding.md R121). -/
def asmHighcut (b : Build) (f : Word) (o : Nat) : List HostStmt :=
  [asmWr b (.reg .arg0) f, asmCmd b (.designHighcut o)]

/-- `PEAK f, g, q` (30_encoding.md R121). -/
def asmPeak (b : Build) (f g q : Word) : List HostStmt :=
  [asmWr b (.reg .arg0) f, asmWr b (.reg .arg1) g, asmWr b (.reg .arg2) q, asmCmd b .designPeak]

/-- `MAG f` (30_encoding.md R121). -/
def asmMag (b : Build) (f : Word) : List HostStmt :=
  [asmWr b (.reg .arg0) f, asmCmd b .magAt, asmRd b (.reg .result)]

/-- `LOADBLK c, v0, …` (30_encoding.md R121). -/
def asmLoadblk (b : Build) (c : Channel) (vs : List Word) : List HostStmt :=
  (List.range vs.length).map fun i => asmWr b (.buf (.sb c) i) (vs.getD i 0)

/-- `PUSHBLK c, v0, …` (30_encoding.md R121). -/
def asmPushblk (b : Build) (c : Channel) (vs : List Word) : List HostStmt :=
  asmLoadblk b c vs ++ [asmCmd b (.ingest (channelIndex c) vs.length)]

/-- `CLRSTAT` (30_encoding.md R121). -/
def asmClrstat (b : Build) : List HostStmt := [asmWr b (.reg .status) 0x0000003F]

end Sys2Proof.Machine
end

