-- ==== Sys2Proof/Machine/Step.lean ====
section
/-! DEFINITION. One step of the machine: one statement of the host program, with the command it issues run to completion
(00_scope.md R5; 40_command_execution.md R140). -/

namespace Sys2Proof.Machine

/-- One host statement as one atomic step (20_memory.md R87; 70_reset_and_hazards.md R313). -/
def step (s : State) : Host.Outcome State Fault Refusal :=
  match hostAction s with
  | .done t => .next t
  | .run i t => exec i t
  | .stop r => .refused r

/-- The host about to write the command word `w` to CMD. The SRB fetches nothing (10_state.md R32): a command comes from
the host, so the host's program becomes that one write, with reset released (log 4). -/
def State.withFetchWord (s : State) (nbits w : Nat) : State :=
  { s with host := { s.host with
      program := [.write (s.build.srbBase + 0x018) 4 (BitVec.ofNat 32 (w % 2 ^ nbits))]
      index := 0
      resetHeld := false } }

end Sys2Proof.Machine
end

