-- ==== Sys2Proof/Safety.lean ====
section
/-! DEFINITION. What counts as a safe state: the invariant of the machine, each clause a rule of the spec about what its
state can hold. -/

namespace Sys2Proof.Machine

/-- A legalised `f32` register's range: finite and between two bounds in the IEEE order (10_state.md R44 to R48). -/
def InRange (v lo hi : Word) : Prop := isFinite v = true ∧ f32Key lo ≤ f32Key v ∧ f32Key v ≤ f32Key hi

/-- Every coefficient is finite (40_command_execution.md R146; 41_coefficient_design.md R179). -/
def Coefs.Finite (c : Coefs) : Prop := ∀ k : CoefName, isFinite (coefWord c k) = true

/-- A frame has `NB` values, each finite (43_spectral_analyzer.md R232, R238). -/
def FrameOk (b : Build) (f : Frame) : Prop := f.length = Build.nb b ∧ ∀ v ∈ f, isFinite v = true

/-- A queue holds at most `FQ_CAP` frames (10_state.md R59; 43_spectral_analyzer.md R238). -/
def ChanOk (b : Build) (x : Chan) : Prop := x.fq.length ≤ b.fqCap ∧ ∀ f ∈ x.fq, FrameOk b f

/-- A byte of some buffer, below its length (20_memory.md R81). -/
def Mapped (b : Build) (a : Nat) : Prop := ∃ buf : Buf, bufBase buf ≤ a ∧ a < bufBase buf + 4 * bufLen b buf

/-- The memory lists bytes of the buffers only, in canonical form (log 14). -/
def MemOk (b : Build) (m : Memory) : Prop := Memory.wf m ∧ ∀ c ∈ m, Mapped b c.1

/-- What every reachable state of the SRB satisfies. -/
structure Inv (s : State) : Prop where
  /-- The build parameters have legal values (00_scope.md R6). -/
  build : Build.legal s.build = true
  /-- Reserved bits of CTRL read 0 and WIN is never 3 (10_state.md R37, R38). -/
  ctrl : s.ctrl &&& 7 = s.ctrl ∧ s.ctrl &&& 6 ≠ 6
  /-- Reserved bits of STATUS read 0 (10_state.md R39). -/
  status : s.status &&& statusMask = s.status
  /-- ERRCODE values above 0x07 are never written (60_exceptions.md R271). -/
  errcode : s.errcode.toNat ≤ 7
  /-- SAMPLE_RATE is finite and in [1000, 768000] (10_state.md R44). -/
  sampleRate : InRange s.sampleRate sampleRateLow sampleRateHigh
  /-- FLOOR_DB is in [-240, 0] (10_state.md R45). -/
  floorDb : InRange s.floorDb floorLow floorHigh
  /-- RESP_FLOOR_DB is in [-240, 0] (10_state.md R46). -/
  respFloorDb : InRange s.respFloorDb floorLow floorHigh
  /-- FMIN is in [1, 1000000] (10_state.md R47). -/
  fmin : InRange s.fmin sweepFreqLow sweepFreqHigh
  /-- FMAX is in [1, 1000000] (10_state.md R48). -/
  fmax : InRange s.fmax sweepFreqLow sweepFreqHigh
  /-- WIDTH is at most WMAX (10_state.md R49). -/
  width : s.width.toNat ≤ Build.wmax s.build
  /-- Reserved bits of BYPASS read 0 (10_state.md R50). -/
  bypass : s.bypass &&& bypassMask = s.bypass
  /-- The coefficient store holds finite values (41_coefficient_design.md R179). -/
  coef : ∀ i : Fin 9, Coefs.Finite s.coef[i]
  /-- Channel 0 (43_spectral_analyzer.md R238). -/
  ch0 : ChanOk s.build s.ch0
  /-- Channel 1 (43_spectral_analyzer.md R238). -/
  ch1 : ChanOk s.build s.ch1
  /-- The buffers' bytes (log 14). -/
  mem : MemOk s.build s.mem

/-! ## Terms the statements use -/

/-- The host's next statement, with reset released. -/
def AtStatement (s : State) (st : HostStmt) : Prop :=
  s.host.program[s.host.index]? = some st ∧ s.host.resetHeld = false

/-- The state a served write leaves to the SRB: the host stands at its next statement, and the platform's answer is no
error. -/
def issued (s : State) : State :=
  { s with host := { s.host with index := s.host.index + 1, errorResponse := false } }

/-- Blocks of samples given to one channel, block after block: each is staged, and then ingested (70_reset_and_hazards.md
R303). None, if an INGEST gives no next state. -/
def ingestAll (s : State) (c : Channel) : List (List Word) → Option State
  | [] => some s
  | block :: rest =>
    match exec (.ingest (channelIndex c) block.length) (State.writeBuf s (.sb c) block) with
    | .next t => ingestAll t c rest
    | .fault _ => none
    | .refused _ => none

/-- The STATUS bits a command can set (60_exceptions.md R272). The bit of a malformed word is set before a command runs. -/
def recordableFlags : Instr → Word
  | .nop | .reset | .chainReset | .designPeak => 0x00
  | .designLowcut _ | .designHighcut _ => 0x03
  | .magAt => 0x10
  | .sweep => 0x13
  | .ingest _ _ => 0x03
  | .produce ch => if ch = 0 then 0x15 else if ch = 1 then 0x19 else 0x01
  | .pop _ | .clear _ => 0x01

/-- The codes a command can leave in ERRCODE (60_exceptions.md R272). -/
def recordableCodes : Instr → List Byte
  | .nop | .reset | .chainReset | .designPeak | .magAt => []
  | .designLowcut _ | .designHighcut _ => [0x05]
  | .sweep => [0x06]
  | .ingest _ _ => [0x03, 0x04]
  | .produce _ | .pop _ | .clear _ => [0x03]

/-- The opcodes of the opcode map (30_encoding.md R113). -/
def assignedOpcodes : List Nat := [0x00, 0x01, 0x10, 0x11, 0x12, 0x13, 0x20, 0x21, 0x30, 0x31, 0x32, 0x33]

/-- The legalisation of an `f32` register, said by cases: a NaN keeps the old value, a value below or above the range
becomes its bound, any other value is stored as it is (10_state.md R44, R45, R47). -/
def Legalised (old v lo hi new : Word) : Prop :=
  (isNaN v = true → new = old) ∧
  (isNaN v = false → f32Key v < f32Key lo → new = lo) ∧
  (isNaN v = false → f32Key hi < f32Key v → new = hi) ∧
  (isNaN v = false → f32Key lo ≤ f32Key v → f32Key v ≤ f32Key hi → new = v)

end Sys2Proof.Machine
end

