-- ==== Sys2Proof/Certificates/Slice0/Obligations.lean ====
section
/-! DEFINITION. The statements for the provers: one definition `Obligations.<Name> : Prop` each. OBLIGATIONS.json lists
them with the rules they rest on. -/

open Sys2Proof Sys2Proof.Machine
/-! ## Encoding -/
/-- Decode and encode agree: every instruction that fits its encoding is read back from its word, with every operand
(30_encoding.md R111, R113, R120). -/
def Obligations.DecodeOfEncode : Prop :=
  ∀ i : Instr, i.wellFormed = true → decode (encode i) = .ok i
/-- A word that decodes is the word of the instruction it decodes to, which fits its encoding: no bit is ignored
(30_encoding.md R114, R116, R118). -/
def Obligations.EncodeOfDecode : Prop :=
  ∀ (v : Word) (i : Instr), decode v = .ok i → i.wellFormed = true ∧ encode i = v
/-- The example words of 30_encoding.md R114 decode to the commands they stand for. -/
def Obligations.ExampleWordsDecode : Prop :=
  decode 0x00000000 = .ok .nop ∧ decode 0x00000001 = .ok .reset ∧ decode 0x00000010 = .ok .chainReset ∧
  decode 0x00020011 = .ok (.designLowcut 2) ∧ decode 0x00000012 = .ok .designPeak ∧
  decode 0x00010013 = .ok (.designHighcut 1) ∧ decode 0x00000020 = .ok .magAt ∧ decode 0x00000021 = .ok .sweep ∧
  decode 0x02000130 = .ok (.ingest 1 512) ∧ decode 0x00000031 = .ok (.produce 0) ∧
  decode 0x00000132 = .ok (.pop 1) ∧ decode 0x00000033 = .ok (.clear 0)
/-- R115: a CMD write with an opcode outside the map is rejected with ILLEGAL_OPCODE and has no other effect. -/
def Obligations.IllegalOpcodeIsRejected : Prop :=
  ∀ (s : State) (v : Word), fieldOpc v ∉ assignedOpcodes →
    issue s v = .done { s with status := s.status ||| 0x01, errcode := 0x01 }
/-- R116: a word with a legal opcode and a must-be-zero bit at 1 is rejected with RESERVED_FIELD. -/
def Obligations.ReservedFieldIsRejected : Prop :=
  ∀ (s : State) (v : Word), fieldOpc v ∈ assignedOpcodes →
    (fieldRsv v ≠ 0 ∨ (fieldOpc v ∉ [0x30, 0x31, 0x32, 0x33] ∧ fieldCh v ≠ 0) ∨
      (fieldOpc v ∉ [0x11, 0x13, 0x30] ∧ fieldImm v ≠ 0)) →
    issue s v = .done { s with status := s.status ||| 0x01, errcode := 0x02 }
/-- R117: a channel command on channel 2 or 3 is rejected with BAD_CHANNEL, whatever its count (R274). -/
def Obligations.BadChannelIsRejected : Prop :=
  ∀ (s : State) (v : Word), fieldOpc v ∈ [0x30, 0x31, 0x32, 0x33] → fieldRsv v = 0 →
    (fieldOpc v ≠ 0x30 → fieldImm v = 0) → 2 ≤ fieldCh v →
    ∃ i, decode v = .ok i ∧ exec i s = .next { s with status := s.status ||| 0x01, errcode := 0x03 }
/-! ## The step -/
/-- A write of a command word to CMD is one step of the machine: the command it decodes to runs on the state with the
host at its next statement, or the word is rejected with the decoder's code (40_command_execution.md R140, R141). -/
def Obligations.StepRunsTheDecodedCommand : Prop :=
  ∀ (s : State) (v : Word), AtStatement s (.write (s.build.srbBase + 0x018) 4 v) →
    (∀ i, decode v = .ok i → step s = exec i (issued s)) ∧
    (∀ e, decode v = .error e →
      step s = .next { issued s with status := s.status ||| 0x01, errcode := e.code })
/-- Any other aligned 32-bit access in the window is one step: a write stores at its location, a read leaves the word of
its location in the host's last-read value (20_memory.md R88, R89). -/
def Obligations.StepServesHostAccesses : Prop :=
  ∀ (s : State) (off : Nat), off < 0x1000000 → off % 4 = 0 →
    (∀ v, off ≠ 0x018 → AtStatement s (.write (s.build.srbBase + off) 4 v) →
      step s = .next (storeLoc (issued s) (locate off) v)) ∧
    (AtStatement s (.read (s.build.srbBase + off) 4) →
      step s = .next { s with host := { (issued s).host with lastRead := loadLoc s (locate off) } })
/-- R82, R273: an access in the window that is not an aligned 32-bit access sets BUSERR and ERRCODE 0x07, answers a read
with 0 and the platform's error response, and changes nothing else; a misaligned write to CMD issues no command, and one
to STATUS clears nothing. How the host holds the answer is the model's choice (log 20). -/
def Obligations.BusErrorOnlyRecords : Prop :=
  ∀ (s : State) (off size : Nat), off < 0x1000000 → (size ≠ 4 ∨ off % 4 ≠ 0) →
    (∀ v, AtStatement s (.write (s.build.srbBase + off) size v) →
      step s = .next { s with status := s.status ||| 0x20, errcode := 0x07,
                              host := { (issued s).host with errorResponse := true } }) ∧
    (AtStatement s (.read (s.build.srbBase + off) size) →
      step s = .next { s with status := s.status ||| 0x20, errcode := 0x07,
                              host := { (issued s).host with lastRead := 0, errorResponse := true } })
/-- The host's own statements touch nothing but its place in the program (30_encoding.md R123): BNZ, BZ, JMP and HALT.
That a host at HALT stays there is the model's choice (log 19). -/
def Obligations.HostBranchesMoveOnlyTheHost : Prop :=
  ∀ (s : State) (k : Nat),
    (AtStatement s (.bnz k) → step s = .next { s with host := { s.host with
      index := if s.host.lastRead ≠ 0 then k else s.host.index + 1 } }) ∧
    (AtStatement s (.bz k) → step s = .next { s with host := { s.host with
      index := if s.host.lastRead = 0 then k else s.host.index + 1 } }) ∧
    (AtStatement s (.jmp k) → step s = .next { s with host := { s.host with index := k } }) ∧
    (AtStatement s .halt → step s = .next s)
/-- No event of the SRB stops it (60_exceptions.md R276): a step never faults, and it is refused only for an access made
while reset is held or outside the window (the model's refusals, log 5 and log 6). -/
def Obligations.StepStopsOnlyOutsideTheSpec : Prop :=
  ∀ s : State, (∃ t, step s = .next t) ∨
    (∃ addr size, (s.host.program[s.host.index]? = some (.read addr size) ∨
        ∃ v, s.host.program[s.host.index]? = some (.write addr size v)) ∧
      ((s.host.resetHeld = true ∧ step s = .refused .accessDuringReset) ∨
        (s.host.resetHeld = false ∧ (addr < s.build.srbBase ∨ s.build.srbBase + 0x1000000 ≤ addr) ∧
          step s = .refused .outsideWindow)))
/-! ## Invariants -/
/-- The headline invariant: from every state that satisfies it, every step gives a state that satisfies it. It says that
WIN is never 3, that reserved bits read 0, that the rates, floors and sweep frequencies stay in their ranges, that the
queues are bounded and hold whole frames of finite values, that the coefficients are finite, and that the memory is
canonical. -/
def Obligations.StepKeepsInvariant : Prop :=
  ∀ s t : State, Inv s → step s = .next t → Inv t
/-- The reset state of every legal build satisfies the invariant. -/
def Obligations.ResetHasInvariant : Prop :=
  (∀ b : Build, Build.legal b = true → Inv (State.resetOf b)) ∧ Inv State.reset
/-- Every step leaves the build parameters as they are (00_scope.md R6). -/
def Obligations.StepKeepsBuild : Prop :=
  ∀ s t : State, step s = .next t → t.build = s.build
/-! ## Reset -/
/-- R301: the value of every element of the state after a reset, for every legal build. -/
def Obligations.ResetStateValues : Prop :=
  ∀ b : Build, Build.legal b = true →
    let s := State.resetOf b
    regRead s .id = 0x53524231 ∧ regRead s .version = 0x00000001 ∧
    regRead s .cfg = BitVec.ofNat 32 (0x2000 + 0x100 * b.j + 0x10 * b.fqCap + b.k) ∧
    regRead s .ctrl = 0x00000005 ∧ regRead s .status = 0 ∧ regRead s .errcode = 0 ∧ regRead s .result = 0 ∧
    regRead s .arg0 = 0 ∧ regRead s .arg1 = 0 ∧ regRead s .arg2 = 0 ∧
    regRead s .sampleRate = 0x472C4400 ∧ regRead s .floorDb = 0xC2400000 ∧ regRead s .respFloorDb = 0xC2C80000 ∧
    regRead s .fmin = 0x41A00000 ∧ regRead s .fmax = 0x469C4000 ∧ regRead s .width = 0 ∧
    regRead s .bypass = 0x0000F1F7 ∧ regRead s .fqstat = 0 ∧ regRead s .dropcnt = 0 ∧
    regRead s .binWidth = rne32 44100 (2 ^ b.k) ∧
    (∀ i : Fin 9, s.coef[i] = { b0 := 0x3F800000, b1 := 0, b2 := 0, a1 := 0, a2 := 0 }) ∧
    (∀ c : Channel, (State.chan s c).fq = [] ∧ (State.chan s c).fresh = false ∧ (State.chan s c).drop = 0 ∧
      (∀ i < 2 ^ b.k, loadLoc s (.buf (.sb c) i) = 0 ∧ loadLoc s (.buf (.rw c) i) = 0) ∧
      (∀ i < 2 ^ b.k / 2, loadLoc s (.buf (.fout c) i) = 0xC2400000)) ∧
    (∀ i < 2 ^ b.j, loadLoc s (.buf .resp i) = 0)
/-- RESET returns every element of the block to its reset value, whatever the state, and leaves the build parameters and
the host as they are (40_command_execution.md R152). The platform's reset input has the same effect, and its release
changes only the host (70_reset_and_hazards.md R300; the two statements of the host are the model's, log 5). -/
def Obligations.ResetSourcesResetTheBlock : Prop :=
  ∀ s : State,
    exec .reset s = .next { State.resetOf s.build with host := s.host } ∧
    (s.host.program[s.host.index]? = some .assertReset → step s = .next { State.resetOf s.build with
      host := { s.host with index := s.host.index + 1, resetHeld := true } }) ∧
    (s.host.program[s.host.index]? = some .releaseReset → step s = .next { s with
      host := { s.host with index := s.host.index + 1, resetHeld := false } })

/-! ## Control commands and coefficient design -/
/-- R151: NOP clears RESULT and does nothing else; with any of bits 31:8 at 1 the word is a RESERVED_FIELD error. -/
def Obligations.NopClearsResult : Prop :=
  (∀ s : State, exec .nop s = .next { s with result := 0 }) ∧ decode 0x00000000 = .ok .nop ∧
  (∀ (s : State) (v : Word), fieldOpc v = 0x00 → v ≠ 0 →
    issue s v = .done { s with status := s.status ||| 0x01, errcode := 0x02 })
/-- CHAIN_RESET writes the identity to every section, bypasses everything, clears RESULT, and changes nothing else
(41_coefficient_design.md R180). -/
def Obligations.ChainResetRestoresTheChain : Prop :=
  ∀ s : State, ∃ t, exec .chainReset s = .next t ∧
    (∀ i : Fin 9, t.coef[i] = { b0 := 0x3F800000, b1 := 0, b2 := 0, a1 := 0, a2 := 0 }) ∧
    t = { s with coef := t.coef, bypass := 0x0000F1F7, result := 0 }
/-- DESIGN_LOWCUT of order 1 to 4 writes sections LC0 to LC(o-1) from `NX.hp` at the clamped frequency, includes them and
bypasses the other LC sections with their coefficients kept, clears RESULT, and changes nothing else
(41_coefficient_design.md R181, R179). DESIGN_HIGHCUT does the same on sections HC0 to HC3 with `NX.lp` (R183). -/
def Obligations.CutsDesignTheirSections : Prop :=
  ∀ (s : State) (o : Nat), 1 ≤ o → o ≤ 4 →
    (∃ t, exec (.designLowcut o) s = .next t ∧
      (∀ i : Fin 9, t.coef[i] =
        if i.val < o then nxHp s.build.nx (clampFreq s.sampleRate s.arg0) s.sampleRate o i.val else s.coef[i]) ∧
      (∀ b < 32, t.bypass.getLsbD b =
        if 4 ≤ b ∧ b < 4 + o then false else if 4 + o ≤ b ∧ b < 8 then true else s.bypass.getLsbD b) ∧
      t = { s with coef := t.coef, bypass := t.bypass, result := 0 }) ∧
    (∃ t, exec (.designHighcut o) s = .next t ∧
      (∀ i : Fin 9, t.coef[i] =
        if 5 ≤ i.val ∧ i.val < 5 + o
        then nxLp s.build.nx (clampFreq s.sampleRate s.arg0) s.sampleRate o (i.val - 5) else s.coef[i]) ∧
      (∀ b < 32, t.bypass.getLsbD b =
        if 12 ≤ b ∧ b < 12 + o then false else if 12 + o ≤ b ∧ b < 16 then true else s.bypass.getLsbD b) ∧
      t = { s with coef := t.coef, bypass := t.bypass, result := 0 })

/-- An order outside 1 to 4: with STRICT = 1 both cut commands are rejected with BAD_ORDER and change nothing else; with
STRICT = 0 the clamp is recorded and the command runs with order 1 (for 0) or 4 (41_coefficient_design.md R173;
40_command_execution.md R143). -/
def Obligations.OrderOutOfRange : Prop :=
  ∀ (s : State) (o : Nat), (o = 0 ∨ 5 ≤ o) →
    (s.ctrl.getLsbD 0 = true →
      exec (.designLowcut o) s = .next { s with status := s.status ||| 0x01, errcode := 0x05 } ∧
      exec (.designHighcut o) s = .next { s with status := s.status ||| 0x01, errcode := 0x05 }) ∧
    (s.ctrl.getLsbD 0 = false →
      exec (.designLowcut o) s =
        exec (.designLowcut (if o = 0 then 1 else 4)) { s with status := s.status ||| 0x02, errcode := 0x05 } ∧
      exec (.designHighcut o) s =
        exec (.designHighcut (if o = 0 then 1 else 4)) { s with status := s.status ||| 0x02, errcode := 0x05 })
/-- DESIGN_PEAK writes section 4 from `NX.pk` at the clamped frequency, gain and Q, includes it, clears RESULT, and
changes nothing else (41_coefficient_design.md R182). -/
def Obligations.PeakDesignsItsSection : Prop :=
  ∀ s : State, ∃ t, exec .designPeak s = .next t ∧
    (∀ i : Fin 9, t.coef[i] =
      if i.val = 4 then nxPk s.build.nx (clampFreq s.sampleRate s.arg0) (clampGain s.arg1) (clampQ s.arg2) s.sampleRate
      else s.coef[i]) ∧
    (∀ b < 32, t.bypass.getLsbD b = if b = 8 then false else s.bypass.getLsbD b) ∧
    t = { s with coef := t.coef, bypass := t.bypass, result := 0 }
/-- R171: for every legal sample rate `FHI` is exactly `fs/2 − 1`; a NaN becomes 1, a value below 1 becomes 1, a value
above `FHI` becomes `FHI`, and any other value stays. -/
def Obligations.FrequencyClamp : Prop :=
  ∀ fs v : Word, InRange fs sampleRateLow sampleRateHigh →
    2 * valUnits (freqHigh fs) = valUnits fs - 2 * unitsPerOne ∧ isFinite (freqHigh fs) = true ∧
    (isNaN v = true → clampFreq fs v = 0x3F800000) ∧
    (isNaN v = false → f32Key v < f32Key 0x3F800000 → clampFreq fs v = 0x3F800000) ∧
    (isNaN v = false → f32Key (freqHigh fs) < f32Key v → clampFreq fs v = freqHigh fs) ∧
    (isNaN v = false → f32Key 0x3F800000 ≤ f32Key v → f32Key v ≤ f32Key (freqHigh fs) → clampFreq fs v = v)
/-- R172 and R174: the gain is clamped to [-24, 24] with a NaN at `+0`, the Q to [0.1, 10] with a NaN at 1; a value in
its range stays as it is. -/
def Obligations.GainAndQClamps : Prop :=
  ∀ v : Word, Legalised 0x00000000 v 0xC1C00000 0x41C00000 (clampGain v) ∧
    Legalised 0x3F800000 v 0x3DCCCCCD 0x41200000 (clampQ v)
/-! ## Magnitude response -/
/-- R56: the conditions under which each section is included. -/
def Obligations.IncludedSectionsByBypass : Prop :=
  ∀ b : Word,
    (∀ j < 4, included b j = true ↔ b.getLsbD 0 = false ∧ b.getLsbD (4 + j) = false) ∧
    (included b 4 = true ↔ b.getLsbD 1 = false ∧ b.getLsbD 8 = false) ∧
    (∀ j < 4, included b (5 + j) = true ↔ b.getLsbD 2 = false ∧ b.getLsbD (12 + j) = false) ∧
    (∀ s : State, s.bypass = b →
      includedSections s = ((List.finRange 9).filter fun i => included b i.val).map fun i => s.coef[i])
/-- MAG_AT at a frequency that is not finite leaves QNAN and NONFINITE; with no section included it leaves exactly 1; with
an included section that has a pole there it leaves QNAN and NONFINITE; else it leaves `NX.mag` of the included
sections, which is zero, positive or +Inf, and no flag. Nothing else changes (42_magnitude_response.md R203, R205). -/
def Obligations.MagAtResult : Prop :=
  ∀ s : State,
    (isFinite s.arg0 = false → exec .magAt s = .next { s with result := 0x7FC00000, status := s.status ||| 0x10 }) ∧
    (isFinite s.arg0 = true → includedSections s = [] → exec .magAt s = .next { s with result := 0x3F800000 }) ∧
    (isFinite s.arg0 = true → (∃ c ∈ includedSections s, sectionHasPole s.arg0 s.sampleRate c = true) →
      exec .magAt s = .next { s with result := 0x7FC00000, status := s.status ||| 0x10 }) ∧
    (isFinite s.arg0 = true → includedSections s ≠ [] →
      (∀ c ∈ includedSections s, sectionHasPole s.arg0 s.sampleRate c = false) →
      exec .magAt s = .next { s with result := nxMag s.build.nx (includedSections s) s.arg0 s.sampleRate } ∧
      (nxMag s.build.nx (includedSections s) s.arg0 s.sampleRate).toNat ≤ 0x7F800000)
/-- SWEEP with FMIN below FMAX: RESULT is WIDTH; column `x` of RESP is the floored decibel value of the magnitude at
`NX.colFreq(FMIN, FMAX, x, WIDTH)`; NONFINITE is set when a column met a pole; every byte outside the WIDTH columns and
everything else stay. With FMIN not below FMAX: with STRICT = 1 it is rejected with BAD_RANGE and changes nothing else,
even for WIDTH 0; with STRICT = 0 the clamp is recorded and every column is at FMIN (42_magnitude_response.md R206). -/
def Obligations.SweepWritesItsColumns : Prop :=
  ∀ s : State,
    (f32Lt s.fmin s.fmax = true → s.width.toNat ≤ Build.wmax s.build →
      ∃ t, exec .sweep s = .next t ∧
        (∀ x < s.width.toNat, loadLoc t (.buf .resp x) =
          (let m := magEval s (nxColFreq s.build.nx s.fmin s.fmax x s.width.toNat)
           if isNaN m then s.respFloorDb
           else if isNaN (nxDb s.build.nx m) || f32Lt (nxDb s.build.nx m) s.respFloorDb then s.respFloorDb
           else nxDb s.build.nx m)) ∧
        (∀ a, a < 0x400000 ∨ 0x400000 + 4 * s.width.toNat ≤ a → readByte t.mem a = readByte s.mem a) ∧
        t = { s with
          mem := t.mem
          result := s.width
          status := if ∃ x < s.width.toNat,
              isNaN (magEval s (nxColFreq s.build.nx s.fmin s.fmax x s.width.toNat)) = true
            then s.status ||| 0x10 else s.status }) ∧
    (f32Lt s.fmin s.fmax = false → s.ctrl.getLsbD 0 = true →
      exec .sweep s = .next { s with status := s.status ||| 0x01, errcode := 0x06 }) ∧
    (f32Lt s.fmin s.fmax = false → s.ctrl.getLsbD 0 = false → s.width.toNat ≤ Build.wmax s.build →
      ∃ t, exec .sweep s = .next t ∧
        (∀ x < s.width.toNat, loadLoc t (.buf .resp x) =
          (let m := magEval s s.fmin
           if isNaN m then s.respFloorDb
           else if isNaN (nxDb s.build.nx m) || f32Lt (nxDb s.build.nx m) s.respFloorDb then s.respFloorDb
           else nxDb s.build.nx m)) ∧
        (∀ a, a < 0x400000 ∨ 0x400000 + 4 * s.width.toNat ≤ a → readByte t.mem a = readByte s.mem a) ∧
        t = { s with
          mem := t.mem
          result := s.width
          errcode := 0x06
          status := if 0 < s.width.toNat ∧ isNaN (magEval s s.fmin) = true
            then s.status ||| 0x02 ||| 0x10 else s.status ||| 0x02 })

/-- A fully bypassed chain sweeps to `+0` dB in every column, for every numerics configuration, and sets no flag
(42_magnitude_response.md R206, R203). -/
def Obligations.BypassedChainSweepsToZero : Prop :=
  ∀ s : State, Inv s → f32Lt s.fmin s.fmax = true → includedSections s = [] →
    ∃ t, exec .sweep s = .next t ∧ (∀ x < s.width.toNat, loadLoc t (.buf .resp x) = 0x00000000) ∧
      t.status = s.status ∧ t.result = s.width
/-- Two SWEEPs with nothing between them: the second leaves the state the first left (42_magnitude_response.md R207). -/
def Obligations.SweepIsIdempotent : Prop :=
  ∀ s t : State, exec .sweep s = .next t → exec .sweep t = .next t
/-- What a design command designed is what MAG_AT sees (42_magnitude_response.md R208, R202, R203): with the other two
stages bypassed and its own stage open, MAG_AT at any finite frequency after the design leaves `NX.mag` of exactly the
designed sections. -/
def Obligations.DesignSeenThroughMagAt : Prop :=
  ∀ (s t : State) (f : Word), isFinite f = true →
    (∀ o, 1 ≤ o → o ≤ 4 → exec (.designLowcut o) s = .next t →
      s.bypass.getLsbD 0 = false → s.bypass.getLsbD 1 = true → s.bypass.getLsbD 2 = true →
      ∃ u, exec .magAt { t with arg0 := f } = .next u ∧
        u.result = nxMag s.build.nx
          ((List.range o).map fun j => nxHp s.build.nx (clampFreq s.sampleRate s.arg0) s.sampleRate o j)
          f s.sampleRate) ∧
    (exec .designPeak s = .next t →
      s.bypass.getLsbD 0 = true → s.bypass.getLsbD 1 = false → s.bypass.getLsbD 2 = true →
      ∃ u, exec .magAt { t with arg0 := f } = .next u ∧
        u.result = nxMag s.build.nx
          [nxPk s.build.nx (clampFreq s.sampleRate s.arg0) (clampGain s.arg1) (clampQ s.arg2) s.sampleRate]
          f s.sampleRate) ∧
    (∀ o, 1 ≤ o → o ≤ 4 → exec (.designHighcut o) s = .next t →
      s.bypass.getLsbD 0 = true → s.bypass.getLsbD 1 = true → s.bypass.getLsbD 2 = false →
      ∃ u, exec .magAt { t with arg0 := f } = .next u ∧
        u.result = nxMag s.build.nx
          ((List.range o).map fun j => nxLp s.build.nx (clampFreq s.sampleRate s.arg0) s.sampleRate o j)
          f s.sampleRate)

/-- The source's peak test, 6 dB and Q 1 at 1000 Hz and 44100 Hz, through the commands: DESIGN_PEAK and then MAG_AT at the
centre leave a magnitude within 0.05 dB of 6 dB exactly when the instance's configuration keeps the tolerance, and
`NX_ref` keeps it (42_magnitude_response.md R208; 40_command_execution.md R146). -/
def Obligations.PeakTestWithinTolerance : Prop :=
  KeepsSourceTolerance .reference ∧
  ∀ s t : State, s.sampleRate = 0x472C4400 →
    s.arg0 = 0x447A0000 → s.arg1 = 0x40C00000 → s.arg2 = 0x3F800000 →
    s.bypass.getLsbD 0 = true → s.bypass.getLsbD 1 = false → s.bypass.getLsbD 2 = true →
    exec .designPeak s = .next t →
    ∃ u, exec .magAt t = .next u ∧
      (|Ideal.val (nxDb s.build.nx u.result) - 6| ≤ 1 / 20 ↔ KeepsSourceTolerance s.build.nx)

/-! ## Spectral analyzer -/
/-- INGEST of `1 ≤ L ≤ N` samples: the window is shifted left by `L` and the first `L` staged words stand at its end, bit
for bit; FRESH is set, RESULT is `L`; every byte outside the window and everything else stay. INGEST of 0 samples only
clears RESULT. INGEST of more than `N` samples: with STRICT = 1 it is rejected with BAD_LENGTH and changes nothing else;
with STRICT = 0 the clamp is recorded and the command runs with `L = N` (43_spectral_analyzer.md R234). -/
def Obligations.IngestShiftsTheWindow : Prop :=
  ∀ (s : State) (c : Channel),
    exec (.ingest (channelIndex c) 0) s = .next { s with result := 0 } ∧
    (∀ l, 1 ≤ l → l ≤ Build.n s.build →
      ∃ t, exec (.ingest (channelIndex c) l) s = .next t ∧
        readBuf t (.rw c) = (readBuf s (.rw c)).drop l ++ (readBuf s (.sb c)).take l ∧
        (∀ a, a < bufBase (.rw c) ∨ bufBase (.rw c) + 4 * Build.n s.build ≤ a →
          readByte t.mem a = readByte s.mem a) ∧
        t = State.setChan { s with mem := t.mem, result := BitVec.ofNat 32 l } c
          { State.chan s c with fresh := true }) ∧
    (∀ l, Build.n s.build < l →
      (s.ctrl.getLsbD 0 = true →
        exec (.ingest (channelIndex c) l) s = .next { s with status := s.status ||| 0x01, errcode := 0x04 }) ∧
      (s.ctrl.getLsbD 0 = false →
        exec (.ingest (channelIndex c) l) s =
          exec (.ingest (channelIndex c) (Build.n s.build)) { s with status := s.status ||| 0x02, errcode := 0x04 }))

/-- However the samples are cut into blocks of at most `N`, staging and ingesting the blocks one after the other leaves in
the window the newest `N` of the old window and all the blocks; if the blocks together have at least `N` samples, the
newest `N` of the blocks (43_spectral_analyzer.md R238; 70_reset_and_hazards.md R303). -/
def Obligations.WindowKeepsTheNewest : Prop :=
  ∀ (s : State) (c : Channel) (blocks : List (List Word)), Build.legal s.build = true →
    (∀ b ∈ blocks, b.length ≤ Build.n s.build) →
    ∃ t, ingestAll s c blocks = some t ∧
      readBuf t (.rw c) = (readBuf s (.rw c) ++ blocks.flatten).drop blocks.flatten.length ∧
      (Build.n s.build ≤ blocks.flatten.length →
        readBuf t (.rw c) = blocks.flatten.drop (blocks.flatten.length - Build.n s.build))

/-- R232: the frame made from a window. With a sample that is not finite every bin is the floor and NONFINITE is noted;
else a bin whose magnitude overflows is the floor and notes NONFINITE, and any other bin is its decibel value, or the
floor when that is lower. The frame has `NB` values; over a finite floor each is finite and not below it. -/
def Obligations.FrameOfTheWindow : Prop :=
  ∀ (s : State) (c : Channel),
    (frameOf s c).1.length = Build.nb s.build ∧
    ((∃ v ∈ readBuf s (.rw c), isFinite v = false) →
      frameOf s c = (List.replicate (Build.nb s.build) s.floorDb, true)) ∧
    ((∀ v ∈ readBuf s (.rw c), isFinite v = true) →
      (∀ k < Build.nb s.build, (frameOf s c).1.getD k 0 =
        (let m := nxBinMag s.build.nx (readBuf s (.rw c)) s.win k
         if isInf m then s.floorDb
         else if isNaN (nxDb s.build.nx m) || f32Lt (nxDb s.build.nx m) s.floorDb then s.floorDb else nxDb s.build.nx m)) ∧
      ((frameOf s c).2 = true ↔
        ∃ k < Build.nb s.build, isInf (nxBinMag s.build.nx (readBuf s (.rw c)) s.win k) = true)) ∧
    (isFinite s.floorDb = true →
      ∀ v ∈ (frameOf s c).1, isFinite v = true ∧ f32Lt v s.floorDb = false)
/-- PRODUCE without new samples only clears RESULT. With new samples it queues the frame of the window (dropping the
oldest frame of a full queue, counting the drop up to 0xFFFF and setting OVFc), clears FRESH, notes NONFINITE with the
frame, and leaves RESULT 1; memory and everything else stay (43_spectral_analyzer.md R233, R235). -/
def Obligations.ProduceQueuesOneFrame : Prop :=
  ∀ (s : State) (c : Channel),
    ((State.chan s c).fresh = false → exec (.produce (channelIndex c)) s = .next { s with result := 0 }) ∧
    ((State.chan s c).fresh = true →
      let x := State.chan s c
      let st := if (frameOf s c).2 then s.status ||| 0x10 else s.status
      (x.fq.length = s.build.fqCap → exec (.produce (channelIndex c)) s =
        .next (State.setChan
          { s with result := 1, status := st ||| (match c with | .c0 => 0x04 | .c1 => 0x08) } c
          { fq := x.fq.drop 1 ++ [(frameOf s c).1], fresh := false,
            drop := BitVec.ofNat 16 (min (x.drop.toNat + 1) 0xFFFF) })) ∧
      (x.fq.length ≠ s.build.fqCap → exec (.produce (channelIndex c)) s =
        .next (State.setChan { s with result := 1, status := st } c
          { fq := x.fq ++ [(frameOf s c).1], fresh := false, drop := x.drop })))
/-- Queueing frames without a POP: the queue keeps the newest `FQ_CAP` frames in order, exactly the oldest are lost, the
drop counter counts them and saturates at 0xFFFF, and OVFc is set when one was lost (43_spectral_analyzer.md R233,
R238). -/
def Obligations.QueueKeepsTheNewestFrames : Prop :=
  ∀ (s : State) (c : Channel) (fs : List Frame), 1 ≤ s.build.fqCap → (State.chan s c).fq.length ≤ s.build.fqCap →
    let t := fs.foldl (fun u f => enqueue u c f) s
    let lost := (State.chan s c).fq.length + fs.length - s.build.fqCap
    (State.chan t c).fq = ((State.chan s c).fq ++ fs).drop lost ∧
    (State.chan t c).drop.toNat = min ((State.chan s c).drop.toNat + lost) 0xFFFF ∧
    (State.chan t c).fresh = (State.chan s c).fresh ∧
    t.status = (if 0 < lost then s.status ||| (match c with | .c0 => 0x04 | .c1 => 0x08) else s.status)
/-- POP of an empty queue only clears RESULT. POP of a queue with a head of `NB` values moves it to FOUT, word for word,
and leaves RESULT 1; every byte outside FOUT of the channel and everything else stay (43_spectral_analyzer.md R236). -/
def Obligations.PopMovesTheHead : Prop :=
  ∀ (s : State) (c : Channel),
    ((State.chan s c).fq = [] → exec (.pop (channelIndex c)) s = .next { s with result := 0 }) ∧
    (∀ f rest, (State.chan s c).fq = f :: rest → f.length = Build.nb s.build →
      ∃ t, exec (.pop (channelIndex c)) s = .next t ∧ readBuf t (.fout c) = f ∧
        (∀ a, a < bufBase (.fout c) ∨ bufBase (.fout c) + 4 * Build.nb s.build ≤ a →
          readByte t.mem a = readByte s.mem a) ∧
        t = State.setChan { s with mem := t.mem, result := 1 } c { State.chan s c with fq := rest })
/-- CLEAR empties one channel: its window is all zero words, FRESH 0, its queue empty, its drops 0, RESULT 0; every byte
outside its window, STATUS and everything else stay (43_spectral_analyzer.md R237). -/
def Obligations.ClearEmptiesOneChannel : Prop :=
  ∀ (s : State) (c : Channel),
    ∃ t, exec (.clear (channelIndex c)) s = .next t ∧
      readBuf t (.rw c) = List.replicate (Build.n s.build) 0 ∧
      (∀ a, a < bufBase (.rw c) ∨ bufBase (.rw c) + 4 * Build.n s.build ≤ a → readByte t.mem a = readByte s.mem a) ∧
      t = State.setChan { s with mem := t.mem, result := 0 } c { fq := [], fresh := false, drop := 0 }
/-- A command on one channel leaves the other channel as it was: its queue, freshness and drops, and its staging buffer,
window and readout buffer; and the chain, RESP and the coefficient store (43_spectral_analyzer.md R234 to R237). -/
def Obligations.ChannelsAreIndependent : Prop :=
  ∀ (s t : State) (c d : Channel) (i : Instr), Inv s → c ≠ d →
    (i = .produce (channelIndex c) ∨ i = .pop (channelIndex c) ∨ i = .clear (channelIndex c) ∨
      ∃ l, i = .ingest (channelIndex c) l) →
    exec i s = .next t →
    State.chan t d = State.chan s d ∧ readBuf t (.sb d) = readBuf s (.sb d) ∧ readBuf t (.rw d) = readBuf s (.rw d) ∧
    readBuf t (.fout d) = readBuf s (.fout d) ∧ readBuf t .resp = readBuf s .resp ∧ t.coef = s.coef ∧
    t.bypass = s.bypass
/-! ## Whole-machine rules over the commands -/
/-- No command but RESET writes CTRL, ARG0 to ARG2, SAMPLE_RATE, FLOOR_DB, RESP_FLOOR_DB, FMIN, FMAX, WIDTH or a staging
buffer, and none changes the build or the host (10_state.md R37, R43, R57; 00_scope.md R6; the effects in the rules of
the commands). BYPASS, which CHAIN_RESET and the designs write, and STATUS are not among these. -/
def Obligations.CommandsLeaveHostRegisters : Prop :=
  ∀ (i : Instr) (s t : State), i ≠ .reset → exec i s = .next t →
    t.build = s.build ∧ t.host = s.host ∧ t.ctrl = s.ctrl ∧ t.arg0 = s.arg0 ∧ t.arg1 = s.arg1 ∧ t.arg2 = s.arg2 ∧
    t.sampleRate = s.sampleRate ∧ t.floorDb = s.floorDb ∧ t.respFloorDb = s.respFloorDb ∧ t.fmin = s.fmin ∧
    t.fmax = s.fmax ∧ t.width = s.width ∧
    (∀ a, 0x100000 ≤ a → a < 0x180000 → readByte t.mem a = readByte s.mem a)
/-- No command reads STATUS, and STATUS bits are sticky (10_state.md R33, R39): from a state that differs in STATUS alone
every command but RESET does the same, setting the same bits on top of what was there; RESET does exactly the same. -/
def Obligations.CommandsDoNotReadStatus : Prop :=
  ∀ (i : Instr) (s t : State) (st : Word), exec i s = .next t →
    (i ≠ .reset → ∃ m, t.status = s.status ||| m ∧
      exec i { s with status := st } = .next { t with status := st ||| m }) ∧
    (i = .reset → exec i { s with status := st } = .next t)
/-- R272: each command sets no STATUS bit and writes no ERRCODE value but those its row allows. -/
def Obligations.CommandsRecordOnlyTheirEvents : Prop :=
  ∀ (i : Instr) (s t : State), i ≠ .reset → exec i s = .next t →
    (∃ m, t.status = s.status ||| m ∧ m &&& ~~~(recordableFlags i) = 0) ∧
    (t.errcode = s.errcode ∨ t.errcode ∈ recordableCodes i)
/-! ## Registers and the window -/
/-- R38 with the write rule of R37: WIN can never be read as 3; a write takes STRICT from bit 0 and WIN from bits 2:1,
except that a 3 leaves WIN as it was; bits 31:3 stay 0. -/
def Obligations.CtrlWriteIsLegalised : Prop :=
  ∀ (s : State) (v : Word), s.ctrl.toNat < 8 → s.win ≠ 3 →
    let t := hostWriteReg s .ctrl v
    t = { s with ctrl := t.ctrl } ∧ t.ctrl.toNat < 8 ∧ State.win t ≠ 3 ∧ t.strict = v.getLsbD 0 ∧
    State.win t = if (v.extractLsb' 1 2).toNat = 3 then s.win else (v.extractLsb' 1 2).toNat
/-- A host write to SAMPLE_RATE, FLOOR_DB, RESP_FLOOR_DB, FMIN or FMAX ignores a NaN, clamps into the register's range,
and stores any other value as it is; nothing else changes (10_state.md R44 to R48). -/
def Obligations.FloatRegistersAreLegalised : Prop :=
  ∀ (s : State) (v : Word),
    (∃ w, hostWriteReg s .sampleRate v = { s with sampleRate := w } ∧
      Legalised s.sampleRate v 0x447A0000 0x493B8000 w) ∧
    (∃ w, hostWriteReg s .floorDb v = { s with floorDb := w } ∧ Legalised s.floorDb v 0xC3700000 0x00000000 w) ∧
    (∃ w, hostWriteReg s .respFloorDb v = { s with respFloorDb := w } ∧
      Legalised s.respFloorDb v 0xC3700000 0x00000000 w) ∧
    (∃ w, hostWriteReg s .fmin v = { s with fmin := w } ∧ Legalised s.fmin v 0x3F800000 0x49742400 w) ∧
    (∃ w, hostWriteReg s .fmax v = { s with fmax := w } ∧ Legalised s.fmax v 0x3F800000 0x49742400 w)
/-- A host write of 1 to a STATUS bit clears it and a 0 leaves it; WIDTH takes `min(v, WMAX)`; BYPASS takes its defined
bits; ARG0, ARG1 and ARG2 take the word verbatim (10_state.md R39, R43, R49, R50). -/
def Obligations.IntegerRegisterWrites : Prop :=
  ∀ (s : State) (v : Word), s.build.j ≤ 15 →
    (∃ w, hostWriteReg s .status v = { s with status := w } ∧
      ∀ b < 32, w.getLsbD b = (s.status.getLsbD b && !(decide (b < 6) && v.getLsbD b))) ∧
    (∃ w, hostWriteReg s .width v = { s with width := w } ∧ w.toNat = min v.toNat (2 ^ s.build.j)) ∧
    hostWriteReg s .bypass v = { s with bypass := v &&& 0x0000F1F7 } ∧
    hostWriteReg s .arg0 v = { s with arg0 := v } ∧ hostWriteReg s .arg1 v = { s with arg1 := v } ∧
    hostWriteReg s .arg2 v = { s with arg2 := v }
/-- R85: a host write to a read-only location is ignored and, like every access to a named location, no bus error; a read
of CMD returns 0. -/
def Obligations.ReadOnlyLocationsIgnoreWrites : Prop :=
  ∀ (s : State) (v : Word),
    (∀ r ∈ [Reg.id, .version, .cfg, .errcode, .result, .fqstat, .dropcnt, .binWidth], storeLoc s (.reg r) v = s) ∧
    (∀ i k, storeLoc s (.coef i k) v = s) ∧
    (∀ c i, storeLoc s (.buf (.rw c) i) v = s ∧ storeLoc s (.buf (.fout c) i) v = s) ∧
    (∀ i, storeLoc s (.buf .resp i) v = s) ∧ (∀ l : Loc, accepted (locOffset l) 4 = true) ∧ loadLoc s (.reg .cmd) = 0
/-- R84: a read at a reserved offset returns 0 and a write there is ignored, neither is a bus error: the reserved words of the
register region, the reserved regions of the map, and every index past a buffer's length. -/
def Obligations.ReservedOffsetsReadZero : Prop :=
  ∀ (s : State) (off : Nat) (v : Word), off < 0x1000000 → off % 4 = 0 →
    (off = 0x02C ∨ (0x058 ≤ off ∧ off < 0x200) ∨ (0x200 ≤ off ∧ off < 0x320 ∧ 5 ≤ off / 4 % 8) ∨
      (0x320 ≤ off ∧ off < 0x100000) ∨ (0x180000 ≤ off ∧ off < 0x200000) ∨ (0x280000 ≤ off ∧ off < 0x300000) ∨
      (0x380000 ≤ off ∧ off < 0x400000) ∨ 0x440000 ≤ off ∨
      (0x100000 ≤ off ∧ off < 0x300000 ∧ Build.n s.build ≤ off % 0x40000 / 4) ∨
      (0x300000 ≤ off ∧ off < 0x380000 ∧ Build.nb s.build ≤ off % 0x40000 / 4) ∨
      (0x400000 ≤ off ∧ off < 0x440000 ∧ Build.wmax s.build ≤ off % 0x40000 / 4)) →
    accepted off 4 = true ∧ loadLoc s (locate off) = 0 ∧ storeLoc s (locate off) v = s
/-- The region map (20_memory.md R81) with the register table (10_state.md section 3): which offset names each of the 21
registers, each coefficient and each word of each buffer. The notation's offset of a location (30_encoding.md R122) names
that location, and is an aligned offset of the window. -/
def Obligations.LocationOffsetsNameThem : Prop :=
  ∀ b : Build, Build.legal b = true →
    (locate 0x000 = .reg .id ∧ locate 0x004 = .reg .version ∧ locate 0x008 = .reg .cfg ∧ locate 0x00C = .reg .ctrl ∧
      locate 0x010 = .reg .status ∧ locate 0x014 = .reg .errcode ∧ locate 0x018 = .reg .cmd ∧
      locate 0x01C = .reg .result ∧ locate 0x020 = .reg .arg0 ∧ locate 0x024 = .reg .arg1 ∧
      locate 0x028 = .reg .arg2 ∧ locate 0x030 = .reg .sampleRate ∧ locate 0x034 = .reg .floorDb ∧
      locate 0x038 = .reg .respFloorDb ∧ locate 0x03C = .reg .fmin ∧ locate 0x040 = .reg .fmax ∧
      locate 0x044 = .reg .width ∧ locate 0x048 = .reg .bypass ∧ locate 0x04C = .reg .fqstat ∧
      locate 0x050 = .reg .dropcnt ∧ locate 0x054 = .reg .binWidth) ∧
    (∀ i : Fin 9, locate (0x200 + 0x20 * i.val) = .coef i .b0 ∧ locate (0x204 + 0x20 * i.val) = .coef i .b1 ∧
      locate (0x208 + 0x20 * i.val) = .coef i .b2 ∧ locate (0x20C + 0x20 * i.val) = .coef i .a1 ∧
      locate (0x210 + 0x20 * i.val) = .coef i .a2) ∧
    (∀ i < 2 ^ b.k, locate (0x100000 + 4 * i) = .buf (.sb .c0) i ∧ locate (0x140000 + 4 * i) = .buf (.sb .c1) i ∧
      locate (0x200000 + 4 * i) = .buf (.rw .c0) i ∧ locate (0x240000 + 4 * i) = .buf (.rw .c1) i) ∧
    (∀ i < 2 ^ b.k / 2, locate (0x300000 + 4 * i) = .buf (.fout .c0) i ∧
      locate (0x340000 + 4 * i) = .buf (.fout .c1) i) ∧
    (∀ i < 2 ^ b.j, locate (0x400000 + 4 * i) = .buf .resp i) ∧
    (∀ l : Loc, l ≠ .reserved → (∀ f i, l = .buf f i → i < bufLen b f) →
      locate (locOffset l) = l ∧ locOffset l % 4 = 0 ∧ locOffset l < 0x1000000)
/-- What a host read of a location returns (20_memory.md R89): the constants, the build's CFG (10_state.md R36), the stored
registers, ERRCODE zero-extended (R40), FQSTAT with its fields (R51), DROPCNT with its halves (R52), each coefficient
(R54), and each word of each buffer. -/
def Obligations.HostReadsReturnTheState : Prop :=
  ∀ s : State,
    loadLoc s (.reg .id) = 0x53524231 ∧ loadLoc s (.reg .version) = 0x00000001 ∧
    (Build.legal s.build = true → loadLoc s (.reg .cfg) =
      BitVec.ofNat 32 (0x2000 + 0x100 * s.build.j + 0x10 * s.build.fqCap + s.build.k)) ∧
    loadLoc s (.reg .ctrl) = s.ctrl ∧ loadLoc s (.reg .status) = s.status ∧
    (loadLoc s (.reg .errcode)).toNat = s.errcode.toNat ∧ loadLoc s (.reg .cmd) = 0 ∧
    loadLoc s (.reg .result) = s.result ∧ loadLoc s (.reg .arg0) = s.arg0 ∧ loadLoc s (.reg .arg1) = s.arg1 ∧
    loadLoc s (.reg .arg2) = s.arg2 ∧ loadLoc s (.reg .sampleRate) = s.sampleRate ∧
    loadLoc s (.reg .floorDb) = s.floorDb ∧ loadLoc s (.reg .respFloorDb) = s.respFloorDb ∧
    loadLoc s (.reg .fmin) = s.fmin ∧ loadLoc s (.reg .fmax) = s.fmax ∧ loadLoc s (.reg .width) = s.width ∧
    loadLoc s (.reg .bypass) = s.bypass ∧
    (Inv s →
      ((loadLoc s (.reg .fqstat)).extractLsb' 0 8).toNat = s.ch0.fq.length ∧
      ((loadLoc s (.reg .fqstat)).extractLsb' 8 8).toNat = s.ch1.fq.length ∧
      (loadLoc s (.reg .fqstat)).getLsbD 16 = s.ch0.fresh ∧ (loadLoc s (.reg .fqstat)).getLsbD 17 = s.ch1.fresh ∧
      ∀ b, 18 ≤ b → (loadLoc s (.reg .fqstat)).getLsbD b = false) ∧
    (loadLoc s (.reg .dropcnt)).extractLsb' 0 16 = s.ch0.drop ∧
    (loadLoc s (.reg .dropcnt)).extractLsb' 16 16 = s.ch1.drop ∧
    (∀ i : Fin 9, loadLoc s (.coef i .b0) = s.coef[i].b0 ∧ loadLoc s (.coef i .b1) = s.coef[i].b1 ∧
      loadLoc s (.coef i .b2) = s.coef[i].b2 ∧ loadLoc s (.coef i .a1) = s.coef[i].a1 ∧
      loadLoc s (.coef i .a2) = s.coef[i].a2) ∧
    (∀ f i, i < bufLen s.build f → (readBuf s f)[i]? = some (loadLoc s (.buf f i)))

/-- A staging word is stored verbatim and read back, and no other location changes (10_state.md R57; 20_memory.md R88). -/
def Obligations.StagingWordsAreVerbatim : Prop :=
  ∀ (s : State) (c : Channel) (i : Nat) (v : Word), Build.legal s.build = true → i < Build.n s.build →
    let t := storeLoc s (.buf (.sb c) i) v
    t = { s with mem := t.mem } ∧ loadLoc t (.buf (.sb c) i) = v ∧
    ∀ l : Loc, l ≠ .buf (.sb c) i → loadLoc t l = loadLoc s l
/-- R53: BIN_WIDTH is exactly `val(SAMPLE_RATE)/N` for every legal build and rate, and ignores writes; the reference
instance reads 0x41AC4400 after reset. -/
def Obligations.BinWidthIsExact : Prop :=
  (∀ s : State, Build.legal s.build = true → InRange s.sampleRate sampleRateLow sampleRateHigh →
    regRead s .binWidth = rne32 (valUnits s.sampleRate) (unitsPerOne * Build.n s.build) ∧
    isFinite (regRead s .binWidth) = true ∧
    valUnits (regRead s .binWidth) * (Build.n s.build : Int) = valUnits s.sampleRate ∧
    ∀ v, hostWriteReg s .binWidth v = s) ∧
  regRead State.reset .binWidth = 0x41AC4400
/-! ## Numerics -/
/-- `rne32` (00_scope.md R10): the machine's, on a ratio of integers, is the one over the reals; below the overflow
threshold it gives a finite value than which none is nearer, the even one of two; from the threshold on the infinity;
`+0` for 0; and every finite value but `-0` is kept. -/
def Obligations.RoundingIsNearestEven : Prop :=
  (∀ (num : Int) (den : Nat), 0 < den → rne32 num den = Ideal.rne32 ((num : ℝ) / (den : ℝ))) ∧
  (∀ r : ℝ, |r| < Ideal.overflowBound → isFinite (Ideal.rne32 r) = true ∧
    ∀ w : Word, isFinite w = true → |Ideal.val (Ideal.rne32 r) - r| ≤ |Ideal.val w - r| ∧
      (|Ideal.val w - r| = |Ideal.val (Ideal.rne32 r) - r| → Ideal.val w ≠ Ideal.val (Ideal.rne32 r) →
        (Ideal.rne32 r).getLsbD 0 = false)) ∧
  (∀ r : ℝ, Ideal.overflowBound ≤ r → Ideal.rne32 r = 0x7F800000 ∧ Ideal.rne32 (-r) = 0xFF800000) ∧
  Ideal.rne32 0 = 0x00000000 ∧
  (∀ v : Word, isFinite v = true → v ≠ 0x80000000 → rne32 (valUnits v) unitsPerOne = v)

/-- R14: the result of `clampFloor` over a finite floor is never a NaN and never below the floor; it is the floor for a
NaN or a lower value and the value itself otherwise. -/
def Obligations.FloorClamp : Prop :=
  ∀ fl d : Word, isFinite fl = true →
    isNaN (clampFloor fl d) = false ∧ f32Lt (clampFloor fl d) fl = false ∧
    (isNaN d = true ∨ f32Lt d fl = true → clampFloor fl d = fl) ∧
    (isNaN d = false → f32Lt d fl = false → clampFloor fl d = d)
/-- The model's test for a pole, and for a zero, is exactly the spec's condition over the complex numbers: `Dn(z) = 0`,
and `Nm(z) = 0`, at `z = e^(2πi·f/fs)` (42_magnitude_response.md R200 to R202). The test by the order of a root of unity
is the model's (log 8). -/
def Obligations.PoleTestIsExact : Prop :=
  ∀ (c : Coefs) (f fs : Word), Ideal.FiniteSection c → isFinite f = true → isFinite fs = true → valUnits fs ≠ 0 →
    (sectionHasPole f fs c = true ↔ Ideal.denominator c (Ideal.evalPoint f fs) = 0) ∧
    (sectionHasZero f fs c = true ↔ Ideal.numerator c (Ideal.evalPoint f fs) = 0)
/-- The model's bound on the bin magnitudes is sound: where it says that no bin overflows, the ideal magnitude is below
the overflow threshold; bin 0 of the rectangular window overflows exactly when the model says so; and a silent window
has magnitude 0 in every bin (43_spectral_analyzer.md R230, R231; log 9). -/
def Obligations.BinOverflowTestIsSound : Prop :=
  ∀ (x : List Word) (win k : Nat), win ≤ 2 → (∃ m, 3 ≤ m ∧ m ≤ 15 ∧ x.length = 2 ^ m) →
    (∀ v ∈ x, isFinite v = true) → k < x.length / 2 →
    (binCannotOverflow x win = true → Ideal.binIdeal x win k < Ideal.overflowBound) ∧
    (win = 0 → k = 0 → (binZeroOverflows x win k = true ↔ Ideal.overflowBound ≤ Ideal.binIdeal x win k)) ∧
    (windowedSilence x win = true → Ideal.binIdeal x win k = 0)
/-- What every numerics configuration gives exactly, on all operands (40_command_execution.md R146, R147, R150; log 7 to
log 11, log 13): finite coefficients; a magnitude that is QNAN where a section has a pole, else zero, positive or +Inf,
and `+0` where a section has a zero; column frequencies that start at FMIN, stay at `a` over the range `[a, a]`, are
positive finite and never fall; bin magnitudes that are zero, positive or +Inf, and `+0` for a silent window; decibels of `+0`, `+Inf` and 1, and finite decibels
elsewhere, not above 0 below 1, not below 0 above 1, and non-decreasing. The last four clauses, that a `-0` operand gives
the result of `+0`, are the model's deduction from R150, which speaks of operands and not of results (log 27, unsafe). -/
def Obligations.NumericsExactClauses : Prop :=
  ∀ nx : NxName,
  (∀ fc fs o j k, isFinite (coefWord (nxHp nx fc fs o j) k) = true ∧ isFinite (coefWord (nxLp nx fc fs o j) k) = true) ∧
  (∀ fc g q fs k, isFinite (coefWord (nxPk nx fc g q fs) k) = true) ∧
  (∀ secs f fs, ((∃ c ∈ secs, sectionHasPole f fs c = true) → nxMag nx secs f fs = 0x7FC00000) ∧
    ((∀ c ∈ secs, sectionHasPole f fs c = false) → (nxMag nx secs f fs).toNat ≤ 0x7F800000 ∧
      ((∃ c ∈ secs, sectionHasZero f fs c = true) → nxMag nx secs f fs = 0))) ∧
  (∀ fmin fmax w, InRange fmin sweepFreqLow sweepFreqHigh →
    nxColFreq nx fmin fmax 0 w = fmin ∧ (∀ x, nxColFreq nx fmin fmin x w = fmin) ∧
    (∀ x, isFinite (nxColFreq nx fmin fmax x w) = true ∧ f32Lt 0 (nxColFreq nx fmin fmax x w) = true) ∧
    (∀ x y, x ≤ y → f32Key (nxColFreq nx fmin fmax x w) ≤ f32Key (nxColFreq nx fmin fmax y w))) ∧
  (∀ x win k, (nxBinMag nx x win k).toNat ≤ 0x7F800000 ∧ (windowedSilence x win = true → nxBinMag nx x win k = 0)) ∧
  nxDb nx 0x00000000 = 0xFF800000 ∧ nxDb nx 0x7F800000 = 0x7F800000 ∧ nxDb nx 0x3F800000 = 0x00000000 ∧
  (∀ m, isFinite m = true → f32Lt 0 m = true → isFinite (nxDb nx m) = true ∧
    (f32Lt m 0x3F800000 = true → f32Lt 0 (nxDb nx m) = false) ∧
    (f32Lt 0x3F800000 m = true → f32Lt (nxDb nx m) 0 = false)) ∧
  (∀ m1 m2, isNaN m1 = false → isNaN m2 = false → f32Neg m1 = false → f32Neg m2 = false →
    f32Key m1 ≤ f32Key m2 → f32Key (nxDb nx m1) ≤ f32Key (nxDb nx m2)) ∧
  (∀ fc q fs, nxPk nx fc 0x80000000 q fs = nxPk nx fc 0x00000000 q fs) ∧
  (∀ secs fs, nxMag nx secs 0x80000000 fs = nxMag nx secs 0x00000000 fs) ∧
  (∀ secs f fs, nxMag nx (secs.map Coefs.sameZero) f fs = nxMag nx secs f fs) ∧
  (∀ x win k, nxBinMag nx (x.map sameZero) win k = nxBinMag nx x win k)

/-- Every numerics configuration of the model meets the whole of 40_command_execution.md R146 and R147 with non-negative
bounds of its own: the accuracy of each result, and `+Inf` exactly where `rne32` of the ideal magnitude overflows. The
bounds at which `NX_ref` meets them are the model's (log 12). -/
def Obligations.NumericsMeetTheirBounds : Prop :=
  ∀ nx : NxName, Ideal.Eps.NonNeg (NxName.eps nx) ∧ Ideal.Meets (numericsAsApplied nx) (NxName.eps nx)

/-- The reference configuration gives `rne32` of the ideal value of every field (40_command_execution.md R145); hence the
exact relations between its coefficients (41_coefficient_design.md R184, R185). -/
def Obligations.ReferenceRoundsTheIdeals : Prop :=
  (∀ fc fs o j, Ideal.LegalCut fc fs o j →
    nxHp .reference fc fs o j = Ideal.roundCoefs (Ideal.hpIdeal (Ideal.val fc) (Ideal.val fs) (Ideal.butterworthQ o j)) ∧
    nxLp .reference fc fs o j = Ideal.roundCoefs (Ideal.lpIdeal (Ideal.val fc) (Ideal.val fs) (Ideal.butterworthQ o j)) ∧
    Ideal.val (nxHp .reference fc fs o j).b1 = -2 * Ideal.val (nxHp .reference fc fs o j).b0 ∧
    Ideal.val (nxLp .reference fc fs o j).b1 = 2 * Ideal.val (nxLp .reference fc fs o j).b0) ∧
  (∀ fc g q fs, Ideal.LegalPeak fc g q fs →
    nxPk .reference fc g q fs =
      Ideal.roundCoefs (Ideal.pkIdeal (Ideal.val fc) (Ideal.val g) (Ideal.val q) (Ideal.val fs)) ∧
    (nxPk .reference fc g q fs).b1 = (nxPk .reference fc g q fs).a1 ∧
    (Ideal.val g = 0 → (nxPk .reference fc g q fs).b0 = 0x3F800000 ∧
      (nxPk .reference fc g q fs).b2 = (nxPk .reference fc g q fs).a2)) ∧
  (∀ secs f fs, Ideal.LegalMag secs f fs →
    (Ideal.HasPole secs f fs → nxMag .reference secs f fs = 0x7FC00000) ∧
    (¬Ideal.HasPole secs f fs → nxMag .reference secs f fs = Ideal.rne32 (Ideal.cascadeMag secs f fs))) ∧
  (∀ fmin fmax x w, Ideal.LegalColumn fmin fmax w → x < w →
    nxColFreq .reference fmin fmax x w = Ideal.rne32 (Ideal.colIdeal fmin fmax x w)) ∧
  (∀ x win k, Ideal.LegalBin x win k → nxBinMag .reference x win k = Ideal.rne32 (Ideal.binIdeal x win k)) ∧
  (∀ m, isFinite m = true → f32Lt 0 m = true → nxDb .reference m = Ideal.rne32 (Ideal.decibels (Ideal.val m)))

/-- R184: the ideal cut designs. The coefficients of the high-pass section sum to 0 and its gain is 0 at 0 Hz and 1 at
`fs/2`; the gain of the low-pass section is 1 at 0 Hz and 0 at `fs/2`; and each has gain `Q` at its own frequency. (R184
prints one of the identities with a wrong sign; the right one is stated.) -/
def Obligations.IdealCutGains : Prop :=
  ∀ f fs q : ℝ, 0 < f → f < fs / 2 → 0 < q →
    (let c := Ideal.hpIdeal f fs q
     c.b0 + c.b1 + c.b2 = 0 ∧ c.b0 - c.b1 + c.b2 = 4 * c.b0 ∧ 1 - c.a1 + c.a2 = 4 * c.b0 ∧
     Ideal.realMag c 0 = 0 ∧ Ideal.realMag c Real.pi = 1 ∧ Ideal.realMag c (2 * Real.pi * f / fs) = q) ∧
    (let c := Ideal.lpIdeal f fs q
     Ideal.realMag c 0 = 1 ∧ Ideal.realMag c Real.pi = 0 ∧ Ideal.realMag c (2 * Real.pi * f / fs) = q)

/-- The ideal cut stages (41_coefficient_design.md R175, R184). In every order the product of the section quality factors
is `1/√2`, which is the stage's gain at its cutoff; the gain is monotone over (0, fs/2); and it falls by `2^(2o)` per
octave, `12·o` dB: for the low-cut stage as the frequency goes to 0, for the high-cut stage as the prewarped frequency
`tan(ω/2)`, on which its cutoff is placed, goes to infinity (DEDUCED: below fs/2 there is no other "far above"). -/
def Obligations.IdealCutStages : Prop :=
  ∀ o, 1 ≤ o → o ≤ 4 →
    ∏ j ∈ Finset.range o, Ideal.butterworthQ o j = 1 / Real.sqrt 2 ∧
    |Ideal.decibels (2 ^ (2 * o)) - 12 * o| ≤ 1 / 20 * o ∧
    ∀ fc fs : ℝ, 0 < fc → fc < fs / 2 →
      Ideal.lowcutMag fc fs o (2 * Real.pi * fc / fs) = 1 / Real.sqrt 2 ∧
      Ideal.highcutMag fc fs o (2 * Real.pi * fc / fs) = 1 / Real.sqrt 2 ∧
      (∀ w1 w2, 0 < w1 → w1 ≤ w2 → w2 < Real.pi →
        Ideal.lowcutMag fc fs o w1 ≤ Ideal.lowcutMag fc fs o w2 ∧
        Ideal.highcutMag fc fs o w2 ≤ Ideal.highcutMag fc fs o w1) ∧
      Filter.Tendsto (fun w => Ideal.lowcutMag fc fs o w / Ideal.lowcutMag fc fs o (w / 2))
        (nhdsWithin 0 (Set.Ioi 0)) (nhds (2 ^ (2 * o))) ∧
      Filter.Tendsto
        (fun t => Ideal.highcutMag fc fs o (2 * Real.arctan t) / Ideal.highcutMag fc fs o (2 * Real.arctan (2 * t)))
        Filter.atTop (nhds (2 ^ (2 * o)))

/-- R185: the ideal peaking design has gain `10^(g/20)` at its centre and gain 1 at 0 Hz and at `fs/2`; for `g = 0` its
numerator is its denominator, so its gain is 1 wherever that is not 0; and for any other `g` its deviation in decibels
falls with the distance from the centre on either side. -/
def Obligations.IdealPeakGains : Prop :=
  ∀ f g q fs : ℝ, 0 < f → f < fs / 2 → 0 < q →
    Ideal.realMag (Ideal.pkIdeal f g q fs) (2 * Real.pi * f / fs) = (10 : ℝ) ^ (g / 20) ∧
    Ideal.realMag (Ideal.pkIdeal f g q fs) 0 = 1 ∧ Ideal.realMag (Ideal.pkIdeal f g q fs) Real.pi = 1 ∧
    (let c := Ideal.pkIdeal f 0 q fs
     c.b0 = 1 ∧ c.b1 = c.a1 ∧ c.b2 = c.a2 ∧ ∀ w, Ideal.realDen c w ≠ 0 → Ideal.realMag c w = 1) ∧
    (g ≠ 0 →
      let deviation := fun w => |Ideal.decibels (Ideal.realMag (Ideal.pkIdeal f g q fs) w)|
      (∀ w1 w2, 2 * Real.pi * f / fs ≤ w1 → w1 < w2 → w2 < Real.pi → deviation w2 < deviation w1) ∧
      (∀ w1 w2, 0 < w1 → w1 < w2 → w2 ≤ 2 * Real.pi * f / fs → deviation w1 < deviation w2))
end

