-- ==== Sys2Proof/Laws/State.lean ====
section
/-! SUPPORT. Each field after each named update of the state, so that no proof unfolds a record update. -/

namespace Sys2Proof.Machine

variable (s : State)

/-! ### setResult -/

@[simp] theorem State.setResult_build (w : Word) : (State.setResult s w).build = s.build := rfl
@[simp] theorem State.setResult_ctrl (w : Word) : (State.setResult s w).ctrl = s.ctrl := rfl
@[simp] theorem State.setResult_status (w : Word) : (State.setResult s w).status = s.status := rfl
@[simp] theorem State.setResult_errcode (w : Word) : (State.setResult s w).errcode = s.errcode := rfl
@[simp] theorem State.setResult_result (w : Word) : (State.setResult s w).result = w := rfl
@[simp] theorem State.setResult_arg0 (w : Word) : (State.setResult s w).arg0 = s.arg0 := rfl
@[simp] theorem State.setResult_arg1 (w : Word) : (State.setResult s w).arg1 = s.arg1 := rfl
@[simp] theorem State.setResult_arg2 (w : Word) : (State.setResult s w).arg2 = s.arg2 := rfl
@[simp] theorem State.setResult_sampleRate (w : Word) : (State.setResult s w).sampleRate = s.sampleRate := rfl
@[simp] theorem State.setResult_floorDb (w : Word) : (State.setResult s w).floorDb = s.floorDb := rfl
@[simp] theorem State.setResult_respFloorDb (w : Word) : (State.setResult s w).respFloorDb = s.respFloorDb := rfl
@[simp] theorem State.setResult_fmin (w : Word) : (State.setResult s w).fmin = s.fmin := rfl
@[simp] theorem State.setResult_fmax (w : Word) : (State.setResult s w).fmax = s.fmax := rfl
@[simp] theorem State.setResult_width (w : Word) : (State.setResult s w).width = s.width := rfl
@[simp] theorem State.setResult_bypass (w : Word) : (State.setResult s w).bypass = s.bypass := rfl
@[simp] theorem State.setResult_coef (w : Word) : (State.setResult s w).coef = s.coef := rfl
@[simp] theorem State.setResult_ch0 (w : Word) : (State.setResult s w).ch0 = s.ch0 := rfl
@[simp] theorem State.setResult_ch1 (w : Word) : (State.setResult s w).ch1 = s.ch1 := rfl
@[simp] theorem State.setResult_mem (w : Word) : (State.setResult s w).mem = s.mem := rfl
@[simp] theorem State.setResult_host (w : Word) : (State.setResult s w).host = s.host := rfl

/-! ### setStatus -/

@[simp] theorem State.setStatus_build (w : Word) : (State.setStatus s w).build = s.build := rfl
@[simp] theorem State.setStatus_ctrl (w : Word) : (State.setStatus s w).ctrl = s.ctrl := rfl
@[simp] theorem State.setStatus_status (w : Word) : (State.setStatus s w).status = w := rfl
@[simp] theorem State.setStatus_errcode (w : Word) : (State.setStatus s w).errcode = s.errcode := rfl
@[simp] theorem State.setStatus_result (w : Word) : (State.setStatus s w).result = s.result := rfl
@[simp] theorem State.setStatus_arg0 (w : Word) : (State.setStatus s w).arg0 = s.arg0 := rfl
@[simp] theorem State.setStatus_arg1 (w : Word) : (State.setStatus s w).arg1 = s.arg1 := rfl
@[simp] theorem State.setStatus_arg2 (w : Word) : (State.setStatus s w).arg2 = s.arg2 := rfl
@[simp] theorem State.setStatus_sampleRate (w : Word) : (State.setStatus s w).sampleRate = s.sampleRate := rfl
@[simp] theorem State.setStatus_floorDb (w : Word) : (State.setStatus s w).floorDb = s.floorDb := rfl
@[simp] theorem State.setStatus_respFloorDb (w : Word) : (State.setStatus s w).respFloorDb = s.respFloorDb := rfl
@[simp] theorem State.setStatus_fmin (w : Word) : (State.setStatus s w).fmin = s.fmin := rfl
@[simp] theorem State.setStatus_fmax (w : Word) : (State.setStatus s w).fmax = s.fmax := rfl
@[simp] theorem State.setStatus_width (w : Word) : (State.setStatus s w).width = s.width := rfl
@[simp] theorem State.setStatus_bypass (w : Word) : (State.setStatus s w).bypass = s.bypass := rfl
@[simp] theorem State.setStatus_coef (w : Word) : (State.setStatus s w).coef = s.coef := rfl
@[simp] theorem State.setStatus_ch0 (w : Word) : (State.setStatus s w).ch0 = s.ch0 := rfl
@[simp] theorem State.setStatus_ch1 (w : Word) : (State.setStatus s w).ch1 = s.ch1 := rfl
@[simp] theorem State.setStatus_mem (w : Word) : (State.setStatus s w).mem = s.mem := rfl
@[simp] theorem State.setStatus_host (w : Word) : (State.setStatus s w).host = s.host := rfl

/-! ### setErrcode -/

@[simp] theorem State.setErrcode_build (b : Byte) : (State.setErrcode s b).build = s.build := rfl
@[simp] theorem State.setErrcode_ctrl (b : Byte) : (State.setErrcode s b).ctrl = s.ctrl := rfl
@[simp] theorem State.setErrcode_status (b : Byte) : (State.setErrcode s b).status = s.status := rfl
@[simp] theorem State.setErrcode_errcode (b : Byte) : (State.setErrcode s b).errcode = b := rfl
@[simp] theorem State.setErrcode_result (b : Byte) : (State.setErrcode s b).result = s.result := rfl
@[simp] theorem State.setErrcode_arg0 (b : Byte) : (State.setErrcode s b).arg0 = s.arg0 := rfl
@[simp] theorem State.setErrcode_arg1 (b : Byte) : (State.setErrcode s b).arg1 = s.arg1 := rfl
@[simp] theorem State.setErrcode_arg2 (b : Byte) : (State.setErrcode s b).arg2 = s.arg2 := rfl
@[simp] theorem State.setErrcode_sampleRate (b : Byte) : (State.setErrcode s b).sampleRate = s.sampleRate := rfl
@[simp] theorem State.setErrcode_floorDb (b : Byte) : (State.setErrcode s b).floorDb = s.floorDb := rfl
@[simp] theorem State.setErrcode_respFloorDb (b : Byte) : (State.setErrcode s b).respFloorDb = s.respFloorDb := rfl
@[simp] theorem State.setErrcode_fmin (b : Byte) : (State.setErrcode s b).fmin = s.fmin := rfl
@[simp] theorem State.setErrcode_fmax (b : Byte) : (State.setErrcode s b).fmax = s.fmax := rfl
@[simp] theorem State.setErrcode_width (b : Byte) : (State.setErrcode s b).width = s.width := rfl
@[simp] theorem State.setErrcode_bypass (b : Byte) : (State.setErrcode s b).bypass = s.bypass := rfl
@[simp] theorem State.setErrcode_coef (b : Byte) : (State.setErrcode s b).coef = s.coef := rfl
@[simp] theorem State.setErrcode_ch0 (b : Byte) : (State.setErrcode s b).ch0 = s.ch0 := rfl
@[simp] theorem State.setErrcode_ch1 (b : Byte) : (State.setErrcode s b).ch1 = s.ch1 := rfl
@[simp] theorem State.setErrcode_mem (b : Byte) : (State.setErrcode s b).mem = s.mem := rfl
@[simp] theorem State.setErrcode_host (b : Byte) : (State.setErrcode s b).host = s.host := rfl

/-! ### setCoef -/

@[simp] theorem State.setCoef_build (c : Vector Coefs 9) : (State.setCoef s c).build = s.build := rfl
@[simp] theorem State.setCoef_ctrl (c : Vector Coefs 9) : (State.setCoef s c).ctrl = s.ctrl := rfl
@[simp] theorem State.setCoef_status (c : Vector Coefs 9) : (State.setCoef s c).status = s.status := rfl
@[simp] theorem State.setCoef_errcode (c : Vector Coefs 9) : (State.setCoef s c).errcode = s.errcode := rfl
@[simp] theorem State.setCoef_result (c : Vector Coefs 9) : (State.setCoef s c).result = s.result := rfl
@[simp] theorem State.setCoef_arg0 (c : Vector Coefs 9) : (State.setCoef s c).arg0 = s.arg0 := rfl
@[simp] theorem State.setCoef_arg1 (c : Vector Coefs 9) : (State.setCoef s c).arg1 = s.arg1 := rfl
@[simp] theorem State.setCoef_arg2 (c : Vector Coefs 9) : (State.setCoef s c).arg2 = s.arg2 := rfl
@[simp] theorem State.setCoef_sampleRate (c : Vector Coefs 9) : (State.setCoef s c).sampleRate = s.sampleRate := rfl
@[simp] theorem State.setCoef_floorDb (c : Vector Coefs 9) : (State.setCoef s c).floorDb = s.floorDb := rfl
@[simp] theorem State.setCoef_respFloorDb (c : Vector Coefs 9) : (State.setCoef s c).respFloorDb = s.respFloorDb := rfl
@[simp] theorem State.setCoef_fmin (c : Vector Coefs 9) : (State.setCoef s c).fmin = s.fmin := rfl
@[simp] theorem State.setCoef_fmax (c : Vector Coefs 9) : (State.setCoef s c).fmax = s.fmax := rfl
@[simp] theorem State.setCoef_width (c : Vector Coefs 9) : (State.setCoef s c).width = s.width := rfl
@[simp] theorem State.setCoef_bypass (c : Vector Coefs 9) : (State.setCoef s c).bypass = s.bypass := rfl
@[simp] theorem State.setCoef_coef (c : Vector Coefs 9) : (State.setCoef s c).coef = c := rfl
@[simp] theorem State.setCoef_ch0 (c : Vector Coefs 9) : (State.setCoef s c).ch0 = s.ch0 := rfl
@[simp] theorem State.setCoef_ch1 (c : Vector Coefs 9) : (State.setCoef s c).ch1 = s.ch1 := rfl
@[simp] theorem State.setCoef_mem (c : Vector Coefs 9) : (State.setCoef s c).mem = s.mem := rfl
@[simp] theorem State.setCoef_host (c : Vector Coefs 9) : (State.setCoef s c).host = s.host := rfl

/-! ### setBypass -/

@[simp] theorem State.setBypass_build (w : Word) : (State.setBypass s w).build = s.build := rfl
@[simp] theorem State.setBypass_ctrl (w : Word) : (State.setBypass s w).ctrl = s.ctrl := rfl
@[simp] theorem State.setBypass_status (w : Word) : (State.setBypass s w).status = s.status := rfl
@[simp] theorem State.setBypass_errcode (w : Word) : (State.setBypass s w).errcode = s.errcode := rfl
@[simp] theorem State.setBypass_result (w : Word) : (State.setBypass s w).result = s.result := rfl
@[simp] theorem State.setBypass_arg0 (w : Word) : (State.setBypass s w).arg0 = s.arg0 := rfl
@[simp] theorem State.setBypass_arg1 (w : Word) : (State.setBypass s w).arg1 = s.arg1 := rfl
@[simp] theorem State.setBypass_arg2 (w : Word) : (State.setBypass s w).arg2 = s.arg2 := rfl
@[simp] theorem State.setBypass_sampleRate (w : Word) : (State.setBypass s w).sampleRate = s.sampleRate := rfl
@[simp] theorem State.setBypass_floorDb (w : Word) : (State.setBypass s w).floorDb = s.floorDb := rfl
@[simp] theorem State.setBypass_respFloorDb (w : Word) : (State.setBypass s w).respFloorDb = s.respFloorDb := rfl
@[simp] theorem State.setBypass_fmin (w : Word) : (State.setBypass s w).fmin = s.fmin := rfl
@[simp] theorem State.setBypass_fmax (w : Word) : (State.setBypass s w).fmax = s.fmax := rfl
@[simp] theorem State.setBypass_width (w : Word) : (State.setBypass s w).width = s.width := rfl
@[simp] theorem State.setBypass_bypass (w : Word) : (State.setBypass s w).bypass = w := rfl
@[simp] theorem State.setBypass_coef (w : Word) : (State.setBypass s w).coef = s.coef := rfl
@[simp] theorem State.setBypass_ch0 (w : Word) : (State.setBypass s w).ch0 = s.ch0 := rfl
@[simp] theorem State.setBypass_ch1 (w : Word) : (State.setBypass s w).ch1 = s.ch1 := rfl
@[simp] theorem State.setBypass_mem (w : Word) : (State.setBypass s w).mem = s.mem := rfl
@[simp] theorem State.setBypass_host (w : Word) : (State.setBypass s w).host = s.host := rfl

/-! ### setMem -/

@[simp] theorem State.setMem_build (m : Memory) : (State.setMem s m).build = s.build := rfl
@[simp] theorem State.setMem_ctrl (m : Memory) : (State.setMem s m).ctrl = s.ctrl := rfl
@[simp] theorem State.setMem_status (m : Memory) : (State.setMem s m).status = s.status := rfl
@[simp] theorem State.setMem_errcode (m : Memory) : (State.setMem s m).errcode = s.errcode := rfl
@[simp] theorem State.setMem_result (m : Memory) : (State.setMem s m).result = s.result := rfl
@[simp] theorem State.setMem_arg0 (m : Memory) : (State.setMem s m).arg0 = s.arg0 := rfl
@[simp] theorem State.setMem_arg1 (m : Memory) : (State.setMem s m).arg1 = s.arg1 := rfl
@[simp] theorem State.setMem_arg2 (m : Memory) : (State.setMem s m).arg2 = s.arg2 := rfl
@[simp] theorem State.setMem_sampleRate (m : Memory) : (State.setMem s m).sampleRate = s.sampleRate := rfl
@[simp] theorem State.setMem_floorDb (m : Memory) : (State.setMem s m).floorDb = s.floorDb := rfl
@[simp] theorem State.setMem_respFloorDb (m : Memory) : (State.setMem s m).respFloorDb = s.respFloorDb := rfl
@[simp] theorem State.setMem_fmin (m : Memory) : (State.setMem s m).fmin = s.fmin := rfl
@[simp] theorem State.setMem_fmax (m : Memory) : (State.setMem s m).fmax = s.fmax := rfl
@[simp] theorem State.setMem_width (m : Memory) : (State.setMem s m).width = s.width := rfl
@[simp] theorem State.setMem_bypass (m : Memory) : (State.setMem s m).bypass = s.bypass := rfl
@[simp] theorem State.setMem_coef (m : Memory) : (State.setMem s m).coef = s.coef := rfl
@[simp] theorem State.setMem_ch0 (m : Memory) : (State.setMem s m).ch0 = s.ch0 := rfl
@[simp] theorem State.setMem_ch1 (m : Memory) : (State.setMem s m).ch1 = s.ch1 := rfl
@[simp] theorem State.setMem_mem (m : Memory) : (State.setMem s m).mem = m := rfl
@[simp] theorem State.setMem_host (m : Memory) : (State.setMem s m).host = s.host := rfl

/-! ### setHost -/

@[simp] theorem State.setHost_build (h : HostPort) : (State.setHost s h).build = s.build := rfl
@[simp] theorem State.setHost_ctrl (h : HostPort) : (State.setHost s h).ctrl = s.ctrl := rfl
@[simp] theorem State.setHost_status (h : HostPort) : (State.setHost s h).status = s.status := rfl
@[simp] theorem State.setHost_errcode (h : HostPort) : (State.setHost s h).errcode = s.errcode := rfl
@[simp] theorem State.setHost_result (h : HostPort) : (State.setHost s h).result = s.result := rfl
@[simp] theorem State.setHost_arg0 (h : HostPort) : (State.setHost s h).arg0 = s.arg0 := rfl
@[simp] theorem State.setHost_arg1 (h : HostPort) : (State.setHost s h).arg1 = s.arg1 := rfl
@[simp] theorem State.setHost_arg2 (h : HostPort) : (State.setHost s h).arg2 = s.arg2 := rfl
@[simp] theorem State.setHost_sampleRate (h : HostPort) : (State.setHost s h).sampleRate = s.sampleRate := rfl
@[simp] theorem State.setHost_floorDb (h : HostPort) : (State.setHost s h).floorDb = s.floorDb := rfl
@[simp] theorem State.setHost_respFloorDb (h : HostPort) : (State.setHost s h).respFloorDb = s.respFloorDb := rfl
@[simp] theorem State.setHost_fmin (h : HostPort) : (State.setHost s h).fmin = s.fmin := rfl
@[simp] theorem State.setHost_fmax (h : HostPort) : (State.setHost s h).fmax = s.fmax := rfl
@[simp] theorem State.setHost_width (h : HostPort) : (State.setHost s h).width = s.width := rfl
@[simp] theorem State.setHost_bypass (h : HostPort) : (State.setHost s h).bypass = s.bypass := rfl
@[simp] theorem State.setHost_coef (h : HostPort) : (State.setHost s h).coef = s.coef := rfl
@[simp] theorem State.setHost_ch0 (h : HostPort) : (State.setHost s h).ch0 = s.ch0 := rfl
@[simp] theorem State.setHost_ch1 (h : HostPort) : (State.setHost s h).ch1 = s.ch1 := rfl
@[simp] theorem State.setHost_mem (h : HostPort) : (State.setHost s h).mem = s.mem := rfl
@[simp] theorem State.setHost_host (h : HostPort) : (State.setHost s h).host = h := rfl

/-! ### setChan -/

@[simp] theorem State.setChan_build (c : Channel) (x : Chan) : (State.setChan s c x).build = s.build := by cases c <;> rfl
@[simp] theorem State.setChan_ctrl (c : Channel) (x : Chan) : (State.setChan s c x).ctrl = s.ctrl := by cases c <;> rfl
@[simp] theorem State.setChan_status (c : Channel) (x : Chan) : (State.setChan s c x).status = s.status := by cases c <;> rfl
@[simp] theorem State.setChan_errcode (c : Channel) (x : Chan) : (State.setChan s c x).errcode = s.errcode := by cases c <;> rfl
@[simp] theorem State.setChan_result (c : Channel) (x : Chan) : (State.setChan s c x).result = s.result := by cases c <;> rfl
@[simp] theorem State.setChan_arg0 (c : Channel) (x : Chan) : (State.setChan s c x).arg0 = s.arg0 := by cases c <;> rfl
@[simp] theorem State.setChan_arg1 (c : Channel) (x : Chan) : (State.setChan s c x).arg1 = s.arg1 := by cases c <;> rfl
@[simp] theorem State.setChan_arg2 (c : Channel) (x : Chan) : (State.setChan s c x).arg2 = s.arg2 := by cases c <;> rfl
@[simp] theorem State.setChan_sampleRate (c : Channel) (x : Chan) : (State.setChan s c x).sampleRate = s.sampleRate := by cases c <;> rfl
@[simp] theorem State.setChan_floorDb (c : Channel) (x : Chan) : (State.setChan s c x).floorDb = s.floorDb := by cases c <;> rfl
@[simp] theorem State.setChan_respFloorDb (c : Channel) (x : Chan) : (State.setChan s c x).respFloorDb = s.respFloorDb := by cases c <;> rfl
@[simp] theorem State.setChan_fmin (c : Channel) (x : Chan) : (State.setChan s c x).fmin = s.fmin := by cases c <;> rfl
@[simp] theorem State.setChan_fmax (c : Channel) (x : Chan) : (State.setChan s c x).fmax = s.fmax := by cases c <;> rfl
@[simp] theorem State.setChan_width (c : Channel) (x : Chan) : (State.setChan s c x).width = s.width := by cases c <;> rfl
@[simp] theorem State.setChan_bypass (c : Channel) (x : Chan) : (State.setChan s c x).bypass = s.bypass := by cases c <;> rfl
@[simp] theorem State.setChan_coef (c : Channel) (x : Chan) : (State.setChan s c x).coef = s.coef := by cases c <;> rfl
@[simp] theorem State.setChan_mem (c : Channel) (x : Chan) : (State.setChan s c x).mem = s.mem := by cases c <;> rfl
@[simp] theorem State.setChan_host (c : Channel) (x : Chan) : (State.setChan s c x).host = s.host := by cases c <;> rfl

@[simp] theorem State.setChan_c0_ch0 (x : Chan) : (State.setChan s .c0 x).ch0 = x := rfl
@[simp] theorem State.setChan_c0_ch1 (x : Chan) : (State.setChan s .c0 x).ch1 = s.ch1 := rfl
@[simp] theorem State.setChan_c1_ch0 (x : Chan) : (State.setChan s .c1 x).ch0 = s.ch0 := rfl
@[simp] theorem State.setChan_c1_ch1 (x : Chan) : (State.setChan s .c1 x).ch1 = x := rfl

/-! ### setFlag -/

@[simp] theorem State.setFlag_build (f : Flag) : (State.setFlag s f).build = s.build := rfl
@[simp] theorem State.setFlag_ctrl (f : Flag) : (State.setFlag s f).ctrl = s.ctrl := rfl
@[simp] theorem State.setFlag_status (f : Flag) : (State.setFlag s f).status = statusSet s.status f := rfl
@[simp] theorem State.setFlag_errcode (f : Flag) : (State.setFlag s f).errcode = s.errcode := rfl
@[simp] theorem State.setFlag_result (f : Flag) : (State.setFlag s f).result = s.result := rfl
@[simp] theorem State.setFlag_arg0 (f : Flag) : (State.setFlag s f).arg0 = s.arg0 := rfl
@[simp] theorem State.setFlag_arg1 (f : Flag) : (State.setFlag s f).arg1 = s.arg1 := rfl
@[simp] theorem State.setFlag_arg2 (f : Flag) : (State.setFlag s f).arg2 = s.arg2 := rfl
@[simp] theorem State.setFlag_sampleRate (f : Flag) : (State.setFlag s f).sampleRate = s.sampleRate := rfl
@[simp] theorem State.setFlag_floorDb (f : Flag) : (State.setFlag s f).floorDb = s.floorDb := rfl
@[simp] theorem State.setFlag_respFloorDb (f : Flag) : (State.setFlag s f).respFloorDb = s.respFloorDb := rfl
@[simp] theorem State.setFlag_fmin (f : Flag) : (State.setFlag s f).fmin = s.fmin := rfl
@[simp] theorem State.setFlag_fmax (f : Flag) : (State.setFlag s f).fmax = s.fmax := rfl
@[simp] theorem State.setFlag_width (f : Flag) : (State.setFlag s f).width = s.width := rfl
@[simp] theorem State.setFlag_bypass (f : Flag) : (State.setFlag s f).bypass = s.bypass := rfl
@[simp] theorem State.setFlag_coef (f : Flag) : (State.setFlag s f).coef = s.coef := rfl
@[simp] theorem State.setFlag_ch0 (f : Flag) : (State.setFlag s f).ch0 = s.ch0 := rfl
@[simp] theorem State.setFlag_ch1 (f : Flag) : (State.setFlag s f).ch1 = s.ch1 := rfl
@[simp] theorem State.setFlag_mem (f : Flag) : (State.setFlag s f).mem = s.mem := rfl
@[simp] theorem State.setFlag_host (f : Flag) : (State.setFlag s f).host = s.host := rfl

/-! ### reject -/

@[simp] theorem State.reject_build (e : ErrCode) : (State.reject s e).build = s.build := rfl
@[simp] theorem State.reject_ctrl (e : ErrCode) : (State.reject s e).ctrl = s.ctrl := rfl
@[simp] theorem State.reject_status (e : ErrCode) : (State.reject s e).status = statusSet s.status .err := rfl
@[simp] theorem State.reject_errcode (e : ErrCode) : (State.reject s e).errcode = e.code := rfl
@[simp] theorem State.reject_result (e : ErrCode) : (State.reject s e).result = s.result := rfl
@[simp] theorem State.reject_arg0 (e : ErrCode) : (State.reject s e).arg0 = s.arg0 := rfl
@[simp] theorem State.reject_arg1 (e : ErrCode) : (State.reject s e).arg1 = s.arg1 := rfl
@[simp] theorem State.reject_arg2 (e : ErrCode) : (State.reject s e).arg2 = s.arg2 := rfl
@[simp] theorem State.reject_sampleRate (e : ErrCode) : (State.reject s e).sampleRate = s.sampleRate := rfl
@[simp] theorem State.reject_floorDb (e : ErrCode) : (State.reject s e).floorDb = s.floorDb := rfl
@[simp] theorem State.reject_respFloorDb (e : ErrCode) : (State.reject s e).respFloorDb = s.respFloorDb := rfl
@[simp] theorem State.reject_fmin (e : ErrCode) : (State.reject s e).fmin = s.fmin := rfl
@[simp] theorem State.reject_fmax (e : ErrCode) : (State.reject s e).fmax = s.fmax := rfl
@[simp] theorem State.reject_width (e : ErrCode) : (State.reject s e).width = s.width := rfl
@[simp] theorem State.reject_bypass (e : ErrCode) : (State.reject s e).bypass = s.bypass := rfl
@[simp] theorem State.reject_coef (e : ErrCode) : (State.reject s e).coef = s.coef := rfl
@[simp] theorem State.reject_ch0 (e : ErrCode) : (State.reject s e).ch0 = s.ch0 := rfl
@[simp] theorem State.reject_ch1 (e : ErrCode) : (State.reject s e).ch1 = s.ch1 := rfl
@[simp] theorem State.reject_mem (e : ErrCode) : (State.reject s e).mem = s.mem := rfl
@[simp] theorem State.reject_host (e : ErrCode) : (State.reject s e).host = s.host := rfl

/-! ### recordClamp -/

@[simp] theorem State.recordClamp_build (e : ErrCode) : (State.recordClamp s e).build = s.build := rfl
@[simp] theorem State.recordClamp_ctrl (e : ErrCode) : (State.recordClamp s e).ctrl = s.ctrl := rfl
@[simp] theorem State.recordClamp_status (e : ErrCode) : (State.recordClamp s e).status = statusSet s.status .clamped := rfl
@[simp] theorem State.recordClamp_errcode (e : ErrCode) : (State.recordClamp s e).errcode = e.code := rfl
@[simp] theorem State.recordClamp_result (e : ErrCode) : (State.recordClamp s e).result = s.result := rfl
@[simp] theorem State.recordClamp_arg0 (e : ErrCode) : (State.recordClamp s e).arg0 = s.arg0 := rfl
@[simp] theorem State.recordClamp_arg1 (e : ErrCode) : (State.recordClamp s e).arg1 = s.arg1 := rfl
@[simp] theorem State.recordClamp_arg2 (e : ErrCode) : (State.recordClamp s e).arg2 = s.arg2 := rfl
@[simp] theorem State.recordClamp_sampleRate (e : ErrCode) : (State.recordClamp s e).sampleRate = s.sampleRate := rfl
@[simp] theorem State.recordClamp_floorDb (e : ErrCode) : (State.recordClamp s e).floorDb = s.floorDb := rfl
@[simp] theorem State.recordClamp_respFloorDb (e : ErrCode) : (State.recordClamp s e).respFloorDb = s.respFloorDb := rfl
@[simp] theorem State.recordClamp_fmin (e : ErrCode) : (State.recordClamp s e).fmin = s.fmin := rfl
@[simp] theorem State.recordClamp_fmax (e : ErrCode) : (State.recordClamp s e).fmax = s.fmax := rfl
@[simp] theorem State.recordClamp_width (e : ErrCode) : (State.recordClamp s e).width = s.width := rfl
@[simp] theorem State.recordClamp_bypass (e : ErrCode) : (State.recordClamp s e).bypass = s.bypass := rfl
@[simp] theorem State.recordClamp_coef (e : ErrCode) : (State.recordClamp s e).coef = s.coef := rfl
@[simp] theorem State.recordClamp_ch0 (e : ErrCode) : (State.recordClamp s e).ch0 = s.ch0 := rfl
@[simp] theorem State.recordClamp_ch1 (e : ErrCode) : (State.recordClamp s e).ch1 = s.ch1 := rfl
@[simp] theorem State.recordClamp_mem (e : ErrCode) : (State.recordClamp s e).mem = s.mem := rfl
@[simp] theorem State.recordClamp_host (e : ErrCode) : (State.recordClamp s e).host = s.host := rfl

/-! ### recordBusError -/

@[simp] theorem State.recordBusError_build : (State.recordBusError s).build = s.build := rfl
@[simp] theorem State.recordBusError_ctrl : (State.recordBusError s).ctrl = s.ctrl := rfl
@[simp] theorem State.recordBusError_status : (State.recordBusError s).status = statusSet s.status .busErr := rfl
@[simp] theorem State.recordBusError_errcode : (State.recordBusError s).errcode = 0x07 := rfl
@[simp] theorem State.recordBusError_result : (State.recordBusError s).result = s.result := rfl
@[simp] theorem State.recordBusError_arg0 : (State.recordBusError s).arg0 = s.arg0 := rfl
@[simp] theorem State.recordBusError_arg1 : (State.recordBusError s).arg1 = s.arg1 := rfl
@[simp] theorem State.recordBusError_arg2 : (State.recordBusError s).arg2 = s.arg2 := rfl
@[simp] theorem State.recordBusError_sampleRate : (State.recordBusError s).sampleRate = s.sampleRate := rfl
@[simp] theorem State.recordBusError_floorDb : (State.recordBusError s).floorDb = s.floorDb := rfl
@[simp] theorem State.recordBusError_respFloorDb : (State.recordBusError s).respFloorDb = s.respFloorDb := rfl
@[simp] theorem State.recordBusError_fmin : (State.recordBusError s).fmin = s.fmin := rfl
@[simp] theorem State.recordBusError_fmax : (State.recordBusError s).fmax = s.fmax := rfl
@[simp] theorem State.recordBusError_width : (State.recordBusError s).width = s.width := rfl
@[simp] theorem State.recordBusError_bypass : (State.recordBusError s).bypass = s.bypass := rfl
@[simp] theorem State.recordBusError_coef : (State.recordBusError s).coef = s.coef := rfl
@[simp] theorem State.recordBusError_ch0 : (State.recordBusError s).ch0 = s.ch0 := rfl
@[simp] theorem State.recordBusError_ch1 : (State.recordBusError s).ch1 = s.ch1 := rfl
@[simp] theorem State.recordBusError_mem : (State.recordBusError s).mem = s.mem := rfl
@[simp] theorem State.recordBusError_host : (State.recordBusError s).host = s.host := rfl

/-! ### noteNonFinite -/

@[simp] theorem State.noteNonFinite_build (b : Bool) : (State.noteNonFinite s b).build = s.build := by cases b <;> rfl
@[simp] theorem State.noteNonFinite_ctrl (b : Bool) : (State.noteNonFinite s b).ctrl = s.ctrl := by cases b <;> rfl
@[simp] theorem State.noteNonFinite_status (b : Bool) : (State.noteNonFinite s b).status = (if b then statusSet s.status .nonfinite else s.status) := by cases b <;> rfl
@[simp] theorem State.noteNonFinite_errcode (b : Bool) : (State.noteNonFinite s b).errcode = s.errcode := by cases b <;> rfl
@[simp] theorem State.noteNonFinite_result (b : Bool) : (State.noteNonFinite s b).result = s.result := by cases b <;> rfl
@[simp] theorem State.noteNonFinite_arg0 (b : Bool) : (State.noteNonFinite s b).arg0 = s.arg0 := by cases b <;> rfl
@[simp] theorem State.noteNonFinite_arg1 (b : Bool) : (State.noteNonFinite s b).arg1 = s.arg1 := by cases b <;> rfl
@[simp] theorem State.noteNonFinite_arg2 (b : Bool) : (State.noteNonFinite s b).arg2 = s.arg2 := by cases b <;> rfl
@[simp] theorem State.noteNonFinite_sampleRate (b : Bool) : (State.noteNonFinite s b).sampleRate = s.sampleRate := by cases b <;> rfl
@[simp] theorem State.noteNonFinite_floorDb (b : Bool) : (State.noteNonFinite s b).floorDb = s.floorDb := by cases b <;> rfl
@[simp] theorem State.noteNonFinite_respFloorDb (b : Bool) : (State.noteNonFinite s b).respFloorDb = s.respFloorDb := by cases b <;> rfl
@[simp] theorem State.noteNonFinite_fmin (b : Bool) : (State.noteNonFinite s b).fmin = s.fmin := by cases b <;> rfl
@[simp] theorem State.noteNonFinite_fmax (b : Bool) : (State.noteNonFinite s b).fmax = s.fmax := by cases b <;> rfl
@[simp] theorem State.noteNonFinite_width (b : Bool) : (State.noteNonFinite s b).width = s.width := by cases b <;> rfl
@[simp] theorem State.noteNonFinite_bypass (b : Bool) : (State.noteNonFinite s b).bypass = s.bypass := by cases b <;> rfl
@[simp] theorem State.noteNonFinite_coef (b : Bool) : (State.noteNonFinite s b).coef = s.coef := by cases b <;> rfl
@[simp] theorem State.noteNonFinite_ch0 (b : Bool) : (State.noteNonFinite s b).ch0 = s.ch0 := by cases b <;> rfl
@[simp] theorem State.noteNonFinite_ch1 (b : Bool) : (State.noteNonFinite s b).ch1 = s.ch1 := by cases b <;> rfl
@[simp] theorem State.noteNonFinite_mem (b : Bool) : (State.noteNonFinite s b).mem = s.mem := by cases b <;> rfl
@[simp] theorem State.noteNonFinite_host (b : Bool) : (State.noteNonFinite s b).host = s.host := by cases b <;> rfl

/-! ### writeBuf -/

@[simp] theorem State.writeBuf_build (b : Buf) (ws : List Word) : (State.writeBuf s b ws).build = s.build := rfl
@[simp] theorem State.writeBuf_ctrl (b : Buf) (ws : List Word) : (State.writeBuf s b ws).ctrl = s.ctrl := rfl
@[simp] theorem State.writeBuf_status (b : Buf) (ws : List Word) : (State.writeBuf s b ws).status = s.status := rfl
@[simp] theorem State.writeBuf_errcode (b : Buf) (ws : List Word) : (State.writeBuf s b ws).errcode = s.errcode := rfl
@[simp] theorem State.writeBuf_result (b : Buf) (ws : List Word) : (State.writeBuf s b ws).result = s.result := rfl
@[simp] theorem State.writeBuf_arg0 (b : Buf) (ws : List Word) : (State.writeBuf s b ws).arg0 = s.arg0 := rfl
@[simp] theorem State.writeBuf_arg1 (b : Buf) (ws : List Word) : (State.writeBuf s b ws).arg1 = s.arg1 := rfl
@[simp] theorem State.writeBuf_arg2 (b : Buf) (ws : List Word) : (State.writeBuf s b ws).arg2 = s.arg2 := rfl
@[simp] theorem State.writeBuf_sampleRate (b : Buf) (ws : List Word) : (State.writeBuf s b ws).sampleRate = s.sampleRate := rfl
@[simp] theorem State.writeBuf_floorDb (b : Buf) (ws : List Word) : (State.writeBuf s b ws).floorDb = s.floorDb := rfl
@[simp] theorem State.writeBuf_respFloorDb (b : Buf) (ws : List Word) : (State.writeBuf s b ws).respFloorDb = s.respFloorDb := rfl
@[simp] theorem State.writeBuf_fmin (b : Buf) (ws : List Word) : (State.writeBuf s b ws).fmin = s.fmin := rfl
@[simp] theorem State.writeBuf_fmax (b : Buf) (ws : List Word) : (State.writeBuf s b ws).fmax = s.fmax := rfl
@[simp] theorem State.writeBuf_width (b : Buf) (ws : List Word) : (State.writeBuf s b ws).width = s.width := rfl
@[simp] theorem State.writeBuf_bypass (b : Buf) (ws : List Word) : (State.writeBuf s b ws).bypass = s.bypass := rfl
@[simp] theorem State.writeBuf_coef (b : Buf) (ws : List Word) : (State.writeBuf s b ws).coef = s.coef := rfl
@[simp] theorem State.writeBuf_ch0 (b : Buf) (ws : List Word) : (State.writeBuf s b ws).ch0 = s.ch0 := rfl
@[simp] theorem State.writeBuf_ch1 (b : Buf) (ws : List Word) : (State.writeBuf s b ws).ch1 = s.ch1 := rfl
@[simp] theorem State.writeBuf_mem (b : Buf) (ws : List Word) : (State.writeBuf s b ws).mem = writeWords s.mem (bufBase b) ws := rfl
@[simp] theorem State.writeBuf_host (b : Buf) (ws : List Word) : (State.writeBuf s b ws).host = s.host := rfl

/-! ### nextStmt -/

@[simp] theorem State.nextStmt_build : (State.nextStmt s).build = s.build := rfl
@[simp] theorem State.nextStmt_ctrl : (State.nextStmt s).ctrl = s.ctrl := rfl
@[simp] theorem State.nextStmt_status : (State.nextStmt s).status = s.status := rfl
@[simp] theorem State.nextStmt_errcode : (State.nextStmt s).errcode = s.errcode := rfl
@[simp] theorem State.nextStmt_result : (State.nextStmt s).result = s.result := rfl
@[simp] theorem State.nextStmt_arg0 : (State.nextStmt s).arg0 = s.arg0 := rfl
@[simp] theorem State.nextStmt_arg1 : (State.nextStmt s).arg1 = s.arg1 := rfl
@[simp] theorem State.nextStmt_arg2 : (State.nextStmt s).arg2 = s.arg2 := rfl
@[simp] theorem State.nextStmt_sampleRate : (State.nextStmt s).sampleRate = s.sampleRate := rfl
@[simp] theorem State.nextStmt_floorDb : (State.nextStmt s).floorDb = s.floorDb := rfl
@[simp] theorem State.nextStmt_respFloorDb : (State.nextStmt s).respFloorDb = s.respFloorDb := rfl
@[simp] theorem State.nextStmt_fmin : (State.nextStmt s).fmin = s.fmin := rfl
@[simp] theorem State.nextStmt_fmax : (State.nextStmt s).fmax = s.fmax := rfl
@[simp] theorem State.nextStmt_width : (State.nextStmt s).width = s.width := rfl
@[simp] theorem State.nextStmt_bypass : (State.nextStmt s).bypass = s.bypass := rfl
@[simp] theorem State.nextStmt_coef : (State.nextStmt s).coef = s.coef := rfl
@[simp] theorem State.nextStmt_ch0 : (State.nextStmt s).ch0 = s.ch0 := rfl
@[simp] theorem State.nextStmt_ch1 : (State.nextStmt s).ch1 = s.ch1 := rfl
@[simp] theorem State.nextStmt_mem : (State.nextStmt s).mem = s.mem := rfl
@[simp] theorem State.nextStmt_host : (State.nextStmt s).host = { s.host with index := s.host.index + 1 } := rfl

/-! ### answerRead -/

@[simp] theorem State.answerRead_build (w : Word) (e : Bool) : (State.answerRead s w e).build = s.build := rfl
@[simp] theorem State.answerRead_ctrl (w : Word) (e : Bool) : (State.answerRead s w e).ctrl = s.ctrl := rfl
@[simp] theorem State.answerRead_status (w : Word) (e : Bool) : (State.answerRead s w e).status = s.status := rfl
@[simp] theorem State.answerRead_errcode (w : Word) (e : Bool) : (State.answerRead s w e).errcode = s.errcode := rfl
@[simp] theorem State.answerRead_result (w : Word) (e : Bool) : (State.answerRead s w e).result = s.result := rfl
@[simp] theorem State.answerRead_arg0 (w : Word) (e : Bool) : (State.answerRead s w e).arg0 = s.arg0 := rfl
@[simp] theorem State.answerRead_arg1 (w : Word) (e : Bool) : (State.answerRead s w e).arg1 = s.arg1 := rfl
@[simp] theorem State.answerRead_arg2 (w : Word) (e : Bool) : (State.answerRead s w e).arg2 = s.arg2 := rfl
@[simp] theorem State.answerRead_sampleRate (w : Word) (e : Bool) : (State.answerRead s w e).sampleRate = s.sampleRate := rfl
@[simp] theorem State.answerRead_floorDb (w : Word) (e : Bool) : (State.answerRead s w e).floorDb = s.floorDb := rfl
@[simp] theorem State.answerRead_respFloorDb (w : Word) (e : Bool) : (State.answerRead s w e).respFloorDb = s.respFloorDb := rfl
@[simp] theorem State.answerRead_fmin (w : Word) (e : Bool) : (State.answerRead s w e).fmin = s.fmin := rfl
@[simp] theorem State.answerRead_fmax (w : Word) (e : Bool) : (State.answerRead s w e).fmax = s.fmax := rfl
@[simp] theorem State.answerRead_width (w : Word) (e : Bool) : (State.answerRead s w e).width = s.width := rfl
@[simp] theorem State.answerRead_bypass (w : Word) (e : Bool) : (State.answerRead s w e).bypass = s.bypass := rfl
@[simp] theorem State.answerRead_coef (w : Word) (e : Bool) : (State.answerRead s w e).coef = s.coef := rfl
@[simp] theorem State.answerRead_ch0 (w : Word) (e : Bool) : (State.answerRead s w e).ch0 = s.ch0 := rfl
@[simp] theorem State.answerRead_ch1 (w : Word) (e : Bool) : (State.answerRead s w e).ch1 = s.ch1 := rfl
@[simp] theorem State.answerRead_mem (w : Word) (e : Bool) : (State.answerRead s w e).mem = s.mem := rfl
@[simp] theorem State.answerRead_host (w : Word) (e : Bool) : (State.answerRead s w e).host = { s.host with lastRead := w, errorResponse := e } := rfl

/-! ### answerWrite -/

@[simp] theorem State.answerWrite_build (e : Bool) : (State.answerWrite s e).build = s.build := rfl
@[simp] theorem State.answerWrite_ctrl (e : Bool) : (State.answerWrite s e).ctrl = s.ctrl := rfl
@[simp] theorem State.answerWrite_status (e : Bool) : (State.answerWrite s e).status = s.status := rfl
@[simp] theorem State.answerWrite_errcode (e : Bool) : (State.answerWrite s e).errcode = s.errcode := rfl
@[simp] theorem State.answerWrite_result (e : Bool) : (State.answerWrite s e).result = s.result := rfl
@[simp] theorem State.answerWrite_arg0 (e : Bool) : (State.answerWrite s e).arg0 = s.arg0 := rfl
@[simp] theorem State.answerWrite_arg1 (e : Bool) : (State.answerWrite s e).arg1 = s.arg1 := rfl
@[simp] theorem State.answerWrite_arg2 (e : Bool) : (State.answerWrite s e).arg2 = s.arg2 := rfl
@[simp] theorem State.answerWrite_sampleRate (e : Bool) : (State.answerWrite s e).sampleRate = s.sampleRate := rfl
@[simp] theorem State.answerWrite_floorDb (e : Bool) : (State.answerWrite s e).floorDb = s.floorDb := rfl
@[simp] theorem State.answerWrite_respFloorDb (e : Bool) : (State.answerWrite s e).respFloorDb = s.respFloorDb := rfl
@[simp] theorem State.answerWrite_fmin (e : Bool) : (State.answerWrite s e).fmin = s.fmin := rfl
@[simp] theorem State.answerWrite_fmax (e : Bool) : (State.answerWrite s e).fmax = s.fmax := rfl
@[simp] theorem State.answerWrite_width (e : Bool) : (State.answerWrite s e).width = s.width := rfl
@[simp] theorem State.answerWrite_bypass (e : Bool) : (State.answerWrite s e).bypass = s.bypass := rfl
@[simp] theorem State.answerWrite_coef (e : Bool) : (State.answerWrite s e).coef = s.coef := rfl
@[simp] theorem State.answerWrite_ch0 (e : Bool) : (State.answerWrite s e).ch0 = s.ch0 := rfl
@[simp] theorem State.answerWrite_ch1 (e : Bool) : (State.answerWrite s e).ch1 = s.ch1 := rfl
@[simp] theorem State.answerWrite_mem (e : Bool) : (State.answerWrite s e).mem = s.mem := rfl
@[simp] theorem State.answerWrite_host (e : Bool) : (State.answerWrite s e).host = { s.host with errorResponse := e } := rfl

/-! ### The channels -/

@[simp] theorem State.chan_c0 : State.chan s .c0 = s.ch0 := rfl
@[simp] theorem State.chan_c1 : State.chan s .c1 = s.ch1 := rfl

@[simp] theorem State.chan_setChan_self (c : Channel) (x : Chan) : State.chan (State.setChan s c x) c = x := by
  cases c <;> rfl

theorem State.chan_setChan_other (c d : Channel) (x : Chan) (h : d ≠ c) :
    State.chan (State.setChan s c x) d = State.chan s d := by
  cases c <;> cases d <;> first | rfl | exact absurd rfl h

@[simp] theorem State.chan_setResult (w : Word) (c : Channel) : State.chan (State.setResult s w) c = State.chan s c := by cases c <;> rfl
@[simp] theorem State.chan_setStatus (w : Word) (c : Channel) : State.chan (State.setStatus s w) c = State.chan s c := by cases c <;> rfl
@[simp] theorem State.chan_setMem (m : Memory) (c : Channel) : State.chan (State.setMem s m) c = State.chan s c := by cases c <;> rfl
@[simp] theorem State.chan_setFlag (f : Flag) (c : Channel) : State.chan (State.setFlag s f) c = State.chan s c := by cases c <;> rfl
@[simp] theorem State.chan_writeBuf (b : Buf) (ws : List Word) (c : Channel) : State.chan (State.writeBuf s b ws) c = State.chan s c := by cases c <;> rfl
@[simp] theorem State.chan_noteNonFinite (b : Bool) (c : Channel) : State.chan (State.noteNonFinite s b) c = State.chan s c := by cases b <;> cases c <;> rfl

/-! ### Reset -/

theorem State.resetBlock_build : (State.resetBlock s).build = s.build := rfl
theorem State.resetBlock_ctrl : (State.resetBlock s).ctrl = (State.resetOf s.build).ctrl := rfl
theorem State.resetBlock_status : (State.resetBlock s).status = (State.resetOf s.build).status := rfl
theorem State.resetBlock_errcode : (State.resetBlock s).errcode = (State.resetOf s.build).errcode := rfl
theorem State.resetBlock_result : (State.resetBlock s).result = (State.resetOf s.build).result := rfl
theorem State.resetBlock_arg0 : (State.resetBlock s).arg0 = (State.resetOf s.build).arg0 := rfl
theorem State.resetBlock_arg1 : (State.resetBlock s).arg1 = (State.resetOf s.build).arg1 := rfl
theorem State.resetBlock_arg2 : (State.resetBlock s).arg2 = (State.resetOf s.build).arg2 := rfl
theorem State.resetBlock_sampleRate : (State.resetBlock s).sampleRate = (State.resetOf s.build).sampleRate := rfl
theorem State.resetBlock_floorDb : (State.resetBlock s).floorDb = (State.resetOf s.build).floorDb := rfl
theorem State.resetBlock_respFloorDb : (State.resetBlock s).respFloorDb = (State.resetOf s.build).respFloorDb := rfl
theorem State.resetBlock_fmin : (State.resetBlock s).fmin = (State.resetOf s.build).fmin := rfl
theorem State.resetBlock_fmax : (State.resetBlock s).fmax = (State.resetOf s.build).fmax := rfl
theorem State.resetBlock_width : (State.resetBlock s).width = (State.resetOf s.build).width := rfl
theorem State.resetBlock_bypass : (State.resetBlock s).bypass = (State.resetOf s.build).bypass := rfl
theorem State.resetBlock_coef : (State.resetBlock s).coef = (State.resetOf s.build).coef := rfl
theorem State.resetBlock_ch0 : (State.resetBlock s).ch0 = (State.resetOf s.build).ch0 := rfl
theorem State.resetBlock_ch1 : (State.resetBlock s).ch1 = (State.resetOf s.build).ch1 := rfl
theorem State.resetBlock_mem : (State.resetBlock s).mem = (State.resetOf s.build).mem := rfl
theorem State.resetBlock_host : (State.resetBlock s).host = s.host := rfl

end Sys2Proof.Machine
end

