-- ==== Sys2Proof/Laws/Memory.lean ====
section
/-! SUPPORT. The byte memory: what a read gives after a write, byte lanes and words, and that every write keeps the
canonical form. -/

namespace Sys2Proof.Machine

/-! ### Looking a byte up -/

theorem lookup_filter_key (p : Nat → Bool) (m : Memory) (x : Nat) :
    (m.filter fun c => p c.1).lookup x = if p x then m.lookup x else none := by
  induction m with
  | nil => simp
  | cons c m ih =>
    obtain ⟨k, b⟩ := c
    by_cases hk : p k <;> by_cases hx : x = k
    · subst hx; simp [hk]
    · have : (x == k) = false := by simpa using hx
      simp [hk, List.lookup_cons, this, ih]
    · subst hx; simp [hk, ih]
    · have : (x == k) = false := by simpa using hx
      simp [hk, List.lookup_cons, this, ih]

theorem lookup_blockCells (bs : List Byte) (a x : Nat) :
    (blockCells a bs).lookup x =
      if a ≤ x ∧ x < a + bs.length then
        (if bs.getD (x - a) 0 = initialByte x then none else some (bs.getD (x - a) 0))
      else none := by
  induction bs generalizing a with
  | nil => simp [blockCells]
  | cons b bs ih =>
    by_cases hx : x = a
    · subst hx
      by_cases hb : b = initialByte x
      · simp [blockCells, hb, ih]
      · simp [blockCells, hb]
    · have hne : (x == a) = false := by simpa using hx
      have key : (blockCells (a + 1) bs).lookup x =
          if a ≤ x ∧ x < a + (b :: bs).length then
            (if (b :: bs).getD (x - a) 0 = initialByte x then none else some ((b :: bs).getD (x - a) 0))
          else none := by
        rw [ih]
        by_cases hin : a + 1 ≤ x ∧ x < a + 1 + bs.length
        · obtain ⟨d, hd⟩ : ∃ d, x - a = d + 1 := ⟨x - a - 1, by omega⟩
          have hd' : x - (a + 1) = d := by omega
          have hout : a ≤ x ∧ x < a + (b :: bs).length := ⟨by omega, by rw [List.length_cons]; omega⟩
          rw [if_pos hin, if_pos hout, hd, hd', List.getD_cons_succ]
        · have hout : ¬(a ≤ x ∧ x < a + (b :: bs).length) := by rw [List.length_cons]; omega
          rw [if_neg hin, if_neg hout]
      by_cases hb : b = initialByte a
      · rw [blockCells, if_pos hb, key]
      · rw [blockCells, if_neg hb, List.lookup_cons, hne, key]

/-- What a byte reads after a block of bytes is stored: the stored byte inside the block, the old byte outside. -/
theorem readByte_writeBlock (m : Memory) (a : Nat) (bs : List Byte) (x : Nat) :
    readByte (writeBlock m a bs) x =
      if a ≤ x ∧ x < a + bs.length then bs.getD (x - a) 0 else readByte m x := by
  unfold readByte writeBlock
  rw [List.lookup_append, List.lookup_append, lookup_filter_key (fun k => decide (k < a)),
    lookup_filter_key (fun k => decide (a + bs.length ≤ k)), lookup_blockCells]
  by_cases h1 : x < a
  · rw [if_neg (show ¬(a ≤ x ∧ x < a + bs.length) by omega),
      if_neg (show ¬(a ≤ x ∧ x < a + bs.length) by omega)]
    have h2 : ¬(a + bs.length ≤ x) := by omega
    simp [h1, h2]
  · by_cases h2 : a + bs.length ≤ x
    · rw [if_neg (show ¬(a ≤ x ∧ x < a + bs.length) by omega),
        if_neg (show ¬(a ≤ x ∧ x < a + bs.length) by omega)]
      simp [h1, h2]
    · rw [if_pos (show a ≤ x ∧ x < a + bs.length by omega),
        if_pos (show a ≤ x ∧ x < a + bs.length by omega)]
      by_cases h3 : bs.getD (x - a) 0 = initialByte x
      · rw [if_pos h3, h3]; simp [h1, h2]
      · rw [if_neg h3]; simp [h1]

theorem readByte_writeBlock_outside (m : Memory) (a : Nat) (bs : List Byte) (x : Nat)
    (h : x < a ∨ a + bs.length ≤ x) : readByte (writeBlock m a bs) x = readByte m x := by
  rw [readByte_writeBlock, if_neg (by omega)]

/-! ### The canonical form -/

theorem mem_blockCells (bs : List Byte) (a : Nat) (c : Host.Cell) (h : c ∈ blockCells a bs) :
    a ≤ c.1 ∧ c.1 < a + bs.length ∧ c.2 ≠ initialByte c.1 := by
  induction bs generalizing a with
  | nil => simp [blockCells] at h
  | cons b bs ih =>
    simp only [blockCells] at h
    split at h
    · have := ih (a + 1) h
      simp only [List.length_cons]
      exact ⟨by omega, by omega, this.2.2⟩
    · rename_i hb
      rcases List.mem_cons.1 h with rfl | h
      · simp only [List.length_cons]
        exact ⟨by omega, by omega, hb⟩
      · have := ih (a + 1) h
        simp only [List.length_cons]
        exact ⟨by omega, by omega, this.2.2⟩

theorem pairwise_blockCells (bs : List Byte) (a : Nat) :
    (blockCells a bs).Pairwise (fun c d => c.1 < d.1) := by
  induction bs generalizing a with
  | nil => exact List.Pairwise.nil
  | cons b bs ih =>
    simp only [blockCells]
    split
    · exact ih (a + 1)
    · refine List.Pairwise.cons (fun c hc => ?_) (ih (a + 1))
      have := (mem_blockCells bs (a + 1) c hc).1
      show a < c.1
      omega

/-- What a cell listed after a store is: one listed before and outside the block, or a byte of the block. -/
theorem mem_writeBlock (m : Memory) (a : Nat) (bs : List Byte) (c : Host.Cell) (h : c ∈ writeBlock m a bs) :
    c ∈ m ∨ (a ≤ c.1 ∧ c.1 < a + bs.length ∧ c.2 ≠ initialByte c.1) := by
  unfold writeBlock at h
  rcases List.mem_append.1 h with h | h
  · rcases List.mem_append.1 h with h | h
    · exact .inl (List.mem_filter.1 h).1
    · exact .inr (mem_blockCells bs a c h)
  · exact .inl (List.mem_filter.1 h).1

/-- Every store keeps the canonical form. -/
theorem wf_writeBlock (m : Memory) (a : Nat) (bs : List Byte) (h : Memory.wf m) : Memory.wf (writeBlock m a bs) := by
  constructor
  · unfold writeBlock
    rw [List.pairwise_append, List.pairwise_append]
    refine ⟨⟨h.1.filter _, pairwise_blockCells bs a, fun c hc d hd => ?_⟩, h.1.filter _, fun c hc d hd => ?_⟩
    · have h1 := (List.mem_filter.1 hc).2
      have h2 := (mem_blockCells bs a d hd).1
      simp only [decide_eq_true_eq] at h1
      omega
    · have h2 := (List.mem_filter.1 hd).2
      simp only [decide_eq_true_eq] at h2
      rcases List.mem_append.1 hc with hc | hc
      · have h1 := (List.mem_filter.1 hc).2
        simp only [decide_eq_true_eq] at h1
        omega
      · have h1 := (mem_blockCells bs a c hc).2.1
        omega
  · intro c hc
    rcases mem_writeBlock m a bs c hc with hc | hc
    · exact h.2 c hc
    · exact hc.2.2

theorem wf_writeWords (m : Memory) (a : Nat) (ws : List Word) (h : Memory.wf m) : Memory.wf (writeWords m a ws) :=
  wf_writeBlock m a _ h

theorem reset_mem_wf : Memory.wf State.reset.mem := by decide

/-! ### Words -/

@[simp] theorem lanesOfWord_length (w : Word) : (lanesOfWord w).length = 4 := rfl

theorem lanes_length (ws : List Word) : (ws.flatMap lanesOfWord).length = 4 * ws.length := by
  induction ws with
  | nil => rfl
  | cons w ws ih => simp [List.flatMap_cons, ih]; omega

/-- The lanes of a word put together again are the word. -/
theorem wordOfLanes_lanesOfWord (w : Word) :
    wordOfLanes (w.extractLsb' 0 8) (w.extractLsb' 8 8) (w.extractLsb' 16 8) (w.extractLsb' 24 8) = w := by
  apply BitVec.eq_of_toNat_eq
  have hw := w.isLt
  simp only [wordOfLanes, BitVec.toNat_ofNat, BitVec.extractLsb'_toNat, Nat.shiftRight_eq_div_pow]
  omega

theorem lane_of_words (ws : List Word) (i j : Nat) (hi : i < ws.length) (hj : j < 4) :
    (ws.flatMap lanesOfWord).getD (4 * i + j) 0 = (lanesOfWord (ws.getD i 0)).getD j 0 := by
  induction ws generalizing i with
  | nil => simp at hi
  | cons w ws ih =>
    rw [List.flatMap_cons]
    cases i with
    | zero =>
      rw [List.getD_append _ _ _ _ (by simp; omega)]
      simp
    | succ i =>
      rw [List.getD_append_right _ _ _ _ (by simp; omega)]
      have : 4 * (i + 1) + j - (lanesOfWord w).length = 4 * i + j := by simp; omega
      rw [this, ih i (by simpa using hi)]
      simp

/-- A word read inside a run of stored words is the stored word. -/
theorem readWord_writeWords_inside (m : Memory) (a : Nat) (ws : List Word) (i : Nat) (hi : i < ws.length) :
    readWord (writeWords m a ws) (a + 4 * i) = ws.getD i 0 := by
  have step : ∀ j, j < 4 → readByte (writeWords m a ws) (a + 4 * i + j) = (lanesOfWord (ws.getD i 0)).getD j 0 := by
    intro j hj
    rw [writeWords, readByte_writeBlock, if_pos (by rw [lanes_length]; omega), ← lane_of_words ws i j hi hj]
    congr 1; omega
  have h0 := step 0 (by omega)
  have h1 := step 1 (by omega)
  have h2 := step 2 (by omega)
  have h3 := step 3 (by omega)
  rw [Nat.add_zero] at h0
  rw [readWord, h0, h1, h2, h3]
  exact wordOfLanes_lanesOfWord _

/-- A byte outside a run of stored words reads as before. -/
theorem readByte_writeWords_outside (m : Memory) (a : Nat) (ws : List Word) (x : Nat)
    (h : x < a ∨ a + 4 * ws.length ≤ x) : readByte (writeWords m a ws) x = readByte m x := by
  rw [writeWords, readByte_writeBlock_outside]
  rw [lanes_length]; exact h

theorem readWord_writeWords_outside (m : Memory) (a : Nat) (ws : List Word) (x : Nat)
    (h : x + 4 ≤ a ∨ a + 4 * ws.length ≤ x) : readWord (writeWords m a ws) x = readWord m x := by
  unfold readWord
  rw [readByte_writeWords_outside _ _ _ x (by omega), readByte_writeWords_outside _ _ _ (x + 1) (by omega),
    readByte_writeWords_outside _ _ _ (x + 2) (by omega), readByte_writeWords_outside _ _ _ (x + 3) (by omega)]

@[simp] theorem readWords_length (m : Memory) (a n : Nat) : (readWords m a n).length = n := by simp [readWords]

theorem readWords_getD (m : Memory) (a n i : Nat) (h : i < n) : (readWords m a n).getD i 0 = readWord m (a + 4 * i) := by
  simp [readWords, List.getD, h]

/-- Reading a run of words just stored gives them back. -/
theorem readWords_writeWords_same (m : Memory) (a : Nat) (ws : List Word) :
    readWords (writeWords m a ws) a ws.length = ws := by
  apply List.ext_getElem (by simp)
  intro i h1 h2
  have := readWord_writeWords_inside m a ws i h2
  simp only [readWords, List.getElem_map, List.getElem_range, this]
  simp [List.getD, h2]

/-- Reading a run of words away from the stored ones gives the old words. -/
theorem readWords_writeWords_outside (m : Memory) (a : Nat) (ws : List Word) (x n : Nat)
    (h : x + 4 * n ≤ a ∨ a + 4 * ws.length ≤ x) : readWords (writeWords m a ws) x n = readWords m x n := by
  unfold readWords
  apply List.map_congr_left
  intro i hi
  have := List.mem_range.1 hi
  exact readWord_writeWords_outside m a ws _ (by omega)

/-! ### The buffers -/

@[simp] theorem readBuf_length (s : State) (b : Buf) : (readBuf s b).length = bufLen s.build b := by
  simp [readBuf]

/-- Storing words in the buffers keeps the memory to mapped bytes in canonical form. -/
theorem memOk_writeWords (bld : Build) (m : Memory) (buf : Buf) (i : Nat) (ws : List Word) (h : MemOk bld m)
    (hlen : i + ws.length ≤ bufLen bld buf) : MemOk bld (writeWords m (bufBase buf + 4 * i) ws) := by
  refine ⟨wf_writeWords _ _ _ h.1, fun c hc => ?_⟩
  rcases mem_writeBlock _ _ _ c hc with hc | hc
  · exact h.2 c hc
  · rw [lanes_length] at hc
    exact ⟨buf, by omega, by omega⟩

end Sys2Proof.Machine
end

