-- ==== Sys2Proof/Laws/Float.lean ====
section
/-! SUPPORT. The binary32 order and clamps. -/

namespace Sys2Proof.Machine

/-! ### Kinds of values -/

theorem f32Mag_lt (v : Word) : f32Mag v < 0x80000000 := Nat.mod_lt _ (by decide)

theorem isNaN_of_isFinite {v : Word} (h : isFinite v = true) : isNaN v = false := by
  simp [isFinite, isNaN] at *; omega

theorem isInf_of_isFinite {v : Word} (h : isFinite v = true) : isInf v = false := by
  simp [isFinite, isInf] at *; omega

theorem isFinite_iff (v : Word) : isFinite v = true ↔ isNaN v = false ∧ isInf v = false := by
  simp [isFinite, isInf, isNaN]; omega

theorem isFinite_of_key {v lo hi : Word} (hlo : isFinite lo = true) (hhi : isFinite hi = true)
    (h1 : f32Key lo ≤ f32Key v) (h2 : f32Key v ≤ f32Key hi) : isFinite v = true := by
  simp only [isFinite, decide_eq_true_eq] at *
  unfold f32Key at h1 h2
  by_cases a : f32Neg v <;> by_cases b : f32Neg lo <;> by_cases c : f32Neg hi <;>
    simp only [a, b, c, if_true, if_false, Bool.false_eq_true] at h1 h2 <;> omega

/-! ### Clamps -/

/-- A clamp of a value that is no NaN, into a range of finite bounds, ends in the range. -/
theorem f32Clamp_inRange {v lo hi : Word} (hv : isNaN v = false) (hlo : isFinite lo = true) (hhi : isFinite hi = true)
    (h : f32Key lo ≤ f32Key hi) : InRange (f32Clamp v lo hi) lo hi := by
  have nlo := isNaN_of_isFinite hlo
  have nhi := isNaN_of_isFinite hhi
  have key : f32Key lo ≤ f32Key (f32Clamp v lo hi) ∧ f32Key (f32Clamp v lo hi) ≤ f32Key hi := by
    simp only [f32Clamp, f32Min, f32Max, f32Lt, hv, nlo, nhi, Bool.not_false, Bool.true_and, decide_eq_true_eq]
    split <;> simp only [hv, nlo, Bool.not_false, Bool.true_and, decide_eq_true_eq] <;> split <;> omega
  exact ⟨isFinite_of_key hlo hhi key.1 key.2, key.1, key.2⟩

/-- A clamp leaves a value of the range as it is. -/
theorem f32Clamp_of_inRange {v lo hi : Word} (h1 : f32Key lo ≤ f32Key v) (h2 : f32Key v ≤ f32Key hi) :
    f32Clamp v lo hi = v := by
  have a : f32Lt v lo = false := by simp [f32Lt]; intros; omega
  have b : f32Lt hi v = false := by simp [f32Lt]; intros; omega
  simp [f32Clamp, f32Min, f32Max, a, b]

/-- A legalised write keeps the register's range. -/
theorem rangeWrite_inRange {old v lo hi : Word} (hold : InRange old lo hi) (hlo : isFinite lo = true)
    (hhi : isFinite hi = true) (h : f32Key lo ≤ f32Key hi) : InRange (rangeWrite old v lo hi) lo hi := by
  unfold rangeWrite
  by_cases hv : isNaN v
  · simpa [hv] using hold
  · rw [if_neg hv]
    exact f32Clamp_inRange (by simpa using hv) hlo hhi h

/-- `clampFloor` of a finite floor and a finite or negative-infinite value is finite. -/
theorem clampFloor_finite {fl d : Word} (hfl : isFinite fl = true) (hd : isFinite d = true ∨ d = negInf) :
    isFinite (clampFloor fl d) = true := by
  unfold clampFloor
  split
  · exact hfl
  · rename_i hc
    rcases hd with hd | rfl
    · exact hd
    · exfalso
      apply hc
      have n := isNaN_of_isFinite hfl
      have hk : f32Key negInf = -0x7F800000 := by decide
      have hm : f32Mag fl < 0x7F800000 := by simpa [isFinite] using hfl
      have hlt : f32Key negInf < f32Key fl := by
        rw [hk]; unfold f32Key; split <;> omega
      have hn : isNaN negInf = false := by decide
      simp [f32Lt, n, hn, hlt]

/-- `clampFloor` never gives a NaN and never a value below the floor (00_scope.md R14). -/
theorem clampFloor_not_below {fl d : Word} (hfl : isFinite fl = true) :
    isNaN (clampFloor fl d) = false ∧ f32Lt (clampFloor fl d) fl = false := by
  unfold clampFloor
  have n := isNaN_of_isFinite hfl
  split
  · exact ⟨n, by simp [f32Lt]⟩
  · rename_i hc
    simp only [Bool.or_eq_true, not_or, Bool.not_eq_true] at hc
    exact hc

end Sys2Proof.Machine
end

