-- ==== Sys2Proof/Laws/Numerics.lean ====
section
/-! SUPPORT. The kinds of results a numerics configuration gives, and what the machine's guards leave as it is. -/

namespace Sys2Proof.Machine

/-! ### The guards -/

theorem asFinite_finite (v : Word) : isFinite (asFinite v) = true := by
  unfold asFinite
  split
  · assumption
  · decide

@[simp] theorem asFinite_of_finite {v : Word} (h : isFinite v = true) : asFinite v = v := by simp [asFinite, h]

theorem asFiniteCoefs_finite (c : Coefs) : Coefs.Finite (Coefs.asFinite c) := by
  intro k; cases k <;> exact asFinite_finite _

theorem asMagnitude_le (v : Word) : (asMagnitude v).toNat ≤ 0x7F800000 := by
  unfold asMagnitude
  split
  · assumption
  · decide

@[simp] theorem asMagnitude_of_le {v : Word} (h : v.toNat ≤ 0x7F800000) : asMagnitude v = v := by simp [asMagnitude, h]

theorem asPositive_bounds (v : Word) : 0 < (asPositive v).toNat ∧ (asPositive v).toNat < 0x7F800000 := by
  unfold asPositive
  split
  · assumption
  · decide

@[simp] theorem asPositive_of_bounds {v : Word} (h : 0 < v.toNat ∧ v.toNat < 0x7F800000) : asPositive v = v := by
  simp [asPositive, h]

@[simp] theorem sameZero_zero : sameZero 0 = 0 := by decide
@[simp] theorem sameZero_negZero : sameZero 0x80000000 = 0 := by decide

/-- Taking one zero for both keeps every value (00_scope.md R9). -/
theorem val_sameZero (v : Word) : Ideal.val (sameZero v) = Ideal.val v := by
  unfold sameZero
  split
  · rename_i h
    rw [h, Ideal.val, Ideal.val, show valUnits 0 = 0 by decide, show valUnits 0x80000000 = 0 by decide]
  · rfl

@[simp] theorem isFinite_sameZero (v : Word) : isFinite (sameZero v) = isFinite v := by
  unfold sameZero
  split
  · rename_i h
    rw [h]
    decide
  · rfl

/-! ### The results -/

theorem nxHp_finite (nx : NxName) (fc fs : Word) (o j : Nat) : Coefs.Finite (nxHp nx fc fs o j) := asFiniteCoefs_finite _
theorem nxLp_finite (nx : NxName) (fc fs : Word) (o j : Nat) : Coefs.Finite (nxLp nx fc fs o j) := asFiniteCoefs_finite _
theorem nxPk_finite (nx : NxName) (fc g q fs : Word) : Coefs.Finite (nxPk nx fc g q fs) := asFiniteCoefs_finite _

/-- The decibels of a magnitude that is not `+Inf` are finite or `-Inf`. -/
theorem nxDb_finite {nx : NxName} {m : Word} (h : isInf m = false) :
    isFinite (nxDb nx m) = true ∨ nxDb nx m = negInf := by
  unfold nxDb
  split
  · exact .inr rfl
  · split
    · rename_i hm; rw [hm] at h; exact absurd h (by decide)
    · split
      · exact .inl (by decide)
      · exact .inl (asFinite_finite _)

end Sys2Proof.Machine
end

