-- ==== Sys2Proof/Laws/Ops.lean ====
section
/-! SUPPORT. What each shared operation can do, said once. -/

namespace Sys2Proof.Machine

/-! ### Flags -/

@[simp] theorem flagMask_err : flagMask .err = 0x01 := by decide
@[simp] theorem flagMask_clamped : flagMask .clamped = 0x02 := by decide
@[simp] theorem flagMask_ovf0 : flagMask .ovf0 = 0x04 := by decide
@[simp] theorem flagMask_ovf1 : flagMask .ovf1 = 0x08 := by decide
@[simp] theorem flagMask_nonfinite : flagMask .nonfinite = 0x10 := by decide
@[simp] theorem flagMask_busErr : flagMask .busErr = 0x20 := by decide

/-- What a rejection leaves (40_command_execution.md R142). -/
theorem reject_eq (s : State) (e : ErrCode) :
    State.reject s e = { s with status := s.status ||| 0x01, errcode := e.code } := by
  rw [← flagMask_err]; rfl

/-- What recording a clamp leaves (40_command_execution.md R143). -/
theorem recordClamp_eq (s : State) (e : ErrCode) :
    State.recordClamp s e = { s with status := s.status ||| 0x02, errcode := e.code } := by
  rw [← flagMask_clamped]; rfl

/-- What recording a bus error leaves (60_exceptions.md R273). -/
theorem recordBusError_eq (s : State) :
    State.recordBusError s = { s with status := s.status ||| 0x20, errcode := 0x07 } := by
  rw [← flagMask_busErr]; rfl

/-- What a note leaves (00_scope.md R13). -/
theorem noteNonFinite_eq (s : State) (met : Bool) :
    State.noteNonFinite s met = { s with status := if met then s.status ||| 0x10 else s.status } := by
  cases met
  · rfl
  · rw [← flagMask_nonfinite]; rfl

/-! ### Class-(d) conditions and channels -/

/-- A class-(d) check goes on with the operand, rejects, or goes on with the legal value after recording the clamp. -/
theorem classD_cases {α : Type} (s : State) (ok : Bool) (e : ErrCode) (x y : α) (go : α → State → State) :
    (ok = true ∧ classD s ok e x y go = go x s) ∨
    (ok = false ∧ s.strict = true ∧ classD s ok e x y go = State.reject s e) ∨
    (ok = false ∧ s.strict = false ∧ classD s ok e x y go = go y (State.recordClamp s e)) := by
  unfold classD
  cases ok <;> cases s.strict <;> simp

theorem withChannel_index (s : State) (c : Channel) (go : Channel → State) :
    withChannel s (channelIndex c) go = go c := by cases c <;> rfl

theorem withChannel_bad (s : State) (ch : Nat) (go : Channel → State) (h : 2 ≤ ch) :
    withChannel s ch go = State.reject s .badChannel := by
  have h0 : ch ≠ 0 := by omega
  have h1 : ch ≠ 1 := by omega
  simp [withChannel, channelOf, h0, h1]

/-- A channel command acts on one of the channels or is rejected. -/
theorem withChannel_cases (s : State) (ch : Nat) (go : Channel → State) :
    (∃ c, ch = channelIndex c ∧ withChannel s ch go = go c) ∨
    (2 ≤ ch ∧ withChannel s ch go = State.reject s .badChannel) := by
  by_cases h : 2 ≤ ch
  · exact .inr ⟨h, withChannel_bad s ch go h⟩
  · left
    have : ch = 0 ∨ ch = 1 := by omega
    rcases this with rfl | rfl
    · exact ⟨.c0, rfl, rfl⟩
    · exact ⟨.c1, rfl, rfl⟩

/-! ### Coefficient store -/

theorem writeSections_get (coef : Vector Coefs 9) (base o : Nat) (f : Nat → Coefs) (i : Fin 9) :
    (writeSections coef base o f)[i] = if base ≤ i.val ∧ i.val < base + o then f (i.val - base) else coef[i] := by
  simp [writeSections]

theorem writeSections_finite {coef : Vector Coefs 9} {base o : Nat} {f : Nat → Coefs}
    (hc : ∀ i : Fin 9, Coefs.Finite coef[i]) (hf : ∀ j, Coefs.Finite (f j)) (i : Fin 9) :
    Coefs.Finite (writeSections coef base o f)[i] := by
  rw [writeSections_get]
  split
  · exact hf _
  · exact hc i

theorem identity_finite : Coefs.Finite identityCoefs := by intro k; cases k <;> decide

/-! ### Buffers -/

theorem shiftIn_length (rw block : List Word) : (shiftIn rw block).length = rw.length := by
  simp [shiftIn]

@[simp] theorem bufLen_rw (b : Build) (c : Channel) : bufLen b (.rw c) = Build.n b := rfl
@[simp] theorem bufLen_sb (b : Build) (c : Channel) : bufLen b (.sb c) = Build.n b := rfl
@[simp] theorem bufLen_fout (b : Build) (c : Channel) : bufLen b (.fout c) = Build.nb b := rfl
@[simp] theorem bufLen_resp (b : Build) : bufLen b .resp = Build.wmax b := rfl

/-- Storing at most a buffer's length keeps the memory's form. -/
theorem memOk_writeBuf {s : State} {b : Buf} {ws : List Word} (h : MemOk s.build s.mem)
    (hl : ws.length ≤ bufLen s.build b) : MemOk s.build (State.writeBuf s b ws).mem := by
  simpa using memOk_writeWords s.build s.mem b 0 ws h (by omega)

/-! ### Frames -/

theorem frameOf_length (s : State) (c : Channel) : (frameOf s c).1.length = Build.nb s.build := by
  unfold frameOf binMags
  simp only
  split <;> simp

/-- A frame made over a finite floor has `NB` finite values (43_spectral_analyzer.md R238). -/
theorem frameOf_ok (s : State) (c : Channel) (h : isFinite s.floorDb = true) : FrameOk s.build (frameOf s c).1 := by
  refine ⟨frameOf_length s c, ?_⟩
  unfold frameOf
  simp only
  split
  · intro v hv
    obtain ⟨m, -, rfl⟩ := List.mem_map.1 hv
    unfold binDb
    split
    · exact h
    · rename_i hm
      exact clampFloor_finite h (nxDb_finite (by simpa using hm))
  · intro v hv
    rw [List.eq_of_mem_replicate hv]
    exact h

/-- What queueing a frame can do: append, or drop the head, count and flag it, and append (43_spectral_analyzer.md
R233). -/
theorem enqueue_cases (s : State) (c : Channel) (f : Frame) :
    ((State.chan s c).fq.length = s.build.fqCap ∧ enqueue s c f =
      State.setFlag (State.setChan s c
        { State.chan s c with
          fq := (State.chan s c).fq.drop 1 ++ [f]
          drop := BitVec.ofNat 16 (sat16 ((State.chan s c).drop.toNat + 1)) }) (overflowFlag c)) ∨
    ((State.chan s c).fq.length ≠ s.build.fqCap ∧ enqueue s c f =
      State.setChan s c { State.chan s c with fq := (State.chan s c).fq ++ [f] }) := by
  unfold enqueue
  by_cases h : (State.chan s c).fq.length = s.build.fqCap
  · exact .inl ⟨h, by simp [h]⟩
  · exact .inr ⟨h, by simp [h]⟩

/-! ### The invariant -/

/-- The invariant says nothing about the host. -/
theorem inv_withHost {s : State} (h : Inv s) (p : HostPort) : Inv { s with host := p } :=
  ⟨h.build, h.ctrl, h.status, h.errcode, h.sampleRate, h.floorDb, h.respFloorDb, h.fmin, h.fmax, h.width, h.bypass,
    h.coef, h.ch0, h.ch1, h.mem⟩

/-! ### The region map -/

/-- The map takes the offset of a named location back to it (30_encoding.md R122): registers. -/
theorem locate_reg (r : Reg) : locate (regOffset r) = .reg r := by cases r <;> rfl

/-- Every command's meaning answers a next state: nothing an SRB command does stops it (60_exceptions.md R276). -/
theorem exec_next (i : Instr) (s : State) : ∃ t, exec i s = .next t := by cases i <;> exact ⟨_, rfl⟩

/-- What a step can be: a host statement done, a command run, or a refusal. -/
theorem step_cases (s : State) :
    (∃ t, hostAction s = .done t ∧ step s = .next t) ∨
    (∃ i t, hostAction s = .run i t ∧ step s = exec i t) ∨
    (∃ r, hostAction s = .stop r ∧ step s = .refused r) := by
  unfold step
  cases h : hostAction s with
  | done t => exact .inl ⟨t, rfl, rfl⟩
  | run i t => exact .inr (.inl ⟨i, t, rfl, rfl⟩)
  | stop r => exact .inr (.inr ⟨r, rfl, rfl⟩)

end Sys2Proof.Machine
end

