-- ==== Sys2Proof/Laws/PerInstr.lean ====
section
/-! SUPPORT. A law of every instruction's encoding, one lemma per constructor: the low byte of its word is its opcode, and
the reserved bits are 0 (30_encoding.md R114). -/

namespace Sys2Proof.Laws.EncodesItsRow

/-- The word of a well-formed instruction holds its opcode in bits 7:0 and 0 in bits 15:10. -/
def Statement (i : Instr) : Prop := i.wellFormed = true → fieldOpc (encode i) = i.opcode ∧ fieldRsv (encode i) = 0

theorem fields_of_encode (i : Instr) (ho : i.opcode < 0x100) (hc : i.chField < 4) :
    fieldOpc (encode i) = i.opcode ∧ fieldRsv (encode i) = 0 := by
  simp only [fieldOpc, fieldRsv, encode, BitVec.extractLsb'_toNat, BitVec.toNat_ofNat, Nat.shiftRight_eq_div_pow]
  omega

theorem opcode_lt (i : Instr) : i.opcode < 0x100 := by cases i <;> simp [Instr.opcode]

theorem ch_lt {ch : Nat} (h : chFits ch = true) : ch < 4 := by
  simp only [chFits, decide_eq_true_eq] at h; omega

theorem nop : Statement .nop := fun _ => fields_of_encode _ (opcode_lt _) (by decide)
theorem reset : Statement .reset := fun _ => fields_of_encode _ (opcode_lt _) (by decide)
theorem chainReset : Statement .chainReset := fun _ => fields_of_encode _ (opcode_lt _) (by decide)
theorem designLowcut (imm : Nat) : Statement (.designLowcut imm) :=
  fun _ => fields_of_encode _ (opcode_lt _) (Nat.succ_pos 3)
theorem designPeak : Statement .designPeak := fun _ => fields_of_encode _ (opcode_lt _) (by decide)
theorem designHighcut (imm : Nat) : Statement (.designHighcut imm) :=
  fun _ => fields_of_encode _ (opcode_lt _) (Nat.succ_pos 3)
theorem magAt : Statement .magAt := fun _ => fields_of_encode _ (opcode_lt _) (by decide)
theorem sweep : Statement .sweep := fun _ => fields_of_encode _ (opcode_lt _) (by decide)
theorem ingest (ch imm : Nat) : Statement (.ingest ch imm) :=
  fun h => fields_of_encode _ (opcode_lt _) (ch_lt (Bool.and_eq_true_iff.1 h).1)
theorem produce (ch : Nat) : Statement (.produce ch) := fun h => fields_of_encode _ (opcode_lt _) (ch_lt h)
theorem pop (ch : Nat) : Statement (.pop ch) := fun h => fields_of_encode _ (opcode_lt _) (ch_lt h)
theorem clear (ch : Nat) : Statement (.clear ch) := fun h => fields_of_encode _ (opcode_lt _) (ch_lt h)

end Sys2Proof.Laws.EncodesItsRow
end

