-- ==== Sys2Proof/Tests/Slice0.lean ====
section
/-! SUPPORT. Tests against the vectors of 95_test_vectors.md and the examples of the rules, and a witness for every
statement that has hypotheses. Expected values are the spec's own. -/

namespace Sys2Proof.Tests

open Sys2Proof.Machine

/-! ## Helpers -/

/-- The small instance of 95_test_vectors.md after reset. -/
def small : State := State.resetOf Build.small

/-- A field of the state an outcome goes on with. -/
def after {α : Type} (o : Host.Outcome State Fault Refusal) (f : State → α) : Option α :=
  match o with
  | .next t => some (f t)
  | .fault _ => none
  | .refused _ => none

/-- `small` with a buffer's first words set. -/
def holding (b : Buf) (ws : List Word) : State := State.writeBuf small b ws

/-- The host of `small` about to run one statement. -/
def running (st : HostStmt) : State := { small with host := { small.host with program := [st] } }

/-! ## Well-formedness: an ill-formed term for each check -/

theorem test_wf_refuses_wide_order : (Instr.designLowcut 0x10000).wellFormed = false := by decide
theorem test_wf_refuses_wide_order_highcut : (Instr.designHighcut 0x10000).wellFormed = false := by decide
theorem test_wf_refuses_wide_count : (Instr.ingest 0 0x10000).wellFormed = false := by decide
theorem test_wf_refuses_wide_channel : (Instr.ingest 4 0).wellFormed = false := by decide
theorem test_wf_refuses_wide_channel_others :
    (Instr.produce 4).wellFormed = false ∧ (Instr.pop 4).wellFormed = false ∧ (Instr.clear 4).wellFormed = false := by
  decide
theorem test_wf_accepts_field_limits : (Instr.ingest 3 0xFFFF).wellFormed = true := by decide

/-! ## Decoding: one word per constructor, written out from 30_encoding.md R111 (IMM, RSV, CH, OPC) -/

theorem test_decode_nop : decode 0b0000000000000000_000000_00_00000000#32 = .ok .nop := by decide
theorem test_decode_reset : decode 0b0000000000000000_000000_00_00000001#32 = .ok .reset := by decide
theorem test_decode_chain_reset : decode 0b0000000000000000_000000_00_00010000#32 = .ok .chainReset := by decide
theorem test_decode_lowcut : decode 0b0000000000000010_000000_00_00010001#32 = .ok (.designLowcut 2) := by decide
theorem test_decode_peak : decode 0b0000000000000000_000000_00_00010010#32 = .ok .designPeak := by decide
theorem test_decode_highcut : decode 0b0000000000000100_000000_00_00010011#32 = .ok (.designHighcut 4) := by decide
theorem test_decode_mag_at : decode 0b0000000000000000_000000_00_00100000#32 = .ok .magAt := by decide
theorem test_decode_sweep : decode 0b0000000000000000_000000_00_00100001#32 = .ok .sweep := by decide
theorem test_decode_ingest : decode 0b0000001000000000_000000_01_00110000#32 = .ok (.ingest 1 512) := by decide
theorem test_decode_produce : decode 0b0000000000000000_000000_01_00110001#32 = .ok (.produce 1) := by decide
theorem test_decode_pop : decode 0b0000000000000000_000000_00_00110010#32 = .ok (.pop 0) := by decide
theorem test_decode_clear : decode 0b0000000000000000_000000_01_00110011#32 = .ok (.clear 1) := by decide

-- Vectors L2-E2 to L2-E15 and L2-E20.
theorem test_decode_reserved : [0x00000100, 0x00010000, 0x0000FC00, 0x00050411, 0x00010111, 0x00010012, 0x80000021,
    0x00010031, 0x00000101].all (fun v => decode v == .error .reservedField) = true := by decide
theorem test_decode_illegal : [0x00000002, 0x000000FF, 0x00000134, 0xFFFFFF14].all
    (fun v => decode v == .error .illegalOpcode) = true := by decide
-- Vectors L2-E9 and L2-E10: BAD_CHANNEL comes from the command, before BAD_LENGTH.
theorem test_bad_channel_first :
    after (exec (.ingest 2 9) small) (fun t => (t.status, t.errcode)) = some (0x01, 0x03) := by decide

-- The assembler encodings listed with L2-E.
theorem test_encode_words : [Instr.designLowcut 2, .designHighcut 4, .ingest 1 512, .ingest 0 8, .produce 1, .pop 0,
    .clear 0, .magAt, .sweep, .chainReset].map encode = [0x00020011, 0x00040013, 0x02000130, 0x00080030, 0x00000131,
    0x00000032, 0x00000033, 0x00000020, 0x00000021, 0x00000010] := by decide

/-! ## Numbers -/

-- The FLOAT(x) table of 95_test_vectors.md, and FLOAT(0.1), FLOAT(-24), FLOAT(24), FLOAT(-240), FLOAT(768000).
theorem test_float_literals : [floatOf 1 1, floatOf (-1) 1, floatOf 6 1, floatOf 20 1, floatOf 1000 1, floatOf 20000 1,
    floatOf 44100 1, floatOf (-10) 1, floatOf 1 10, floatOf (-24) 1, floatOf 24 1, floatOf (-240) 1, floatOf 768000 1,
    floatOf 1000000 1, floatOf (-48) 1] = [0x3F800000, 0xBF800000, 0x40C00000, 0x41A00000, 0x447A0000, 0x469C4000,
    0x472C4400, 0xC1200000, 0x3DCCCCCD, 0xC1C00000, 0x41C00000, 0xC3700000, 0x493B8000, 0x49742400, 0xC2400000] := by
  decide
-- The edges of the format: overflow threshold, greatest finite, least subnormal, and ties to even.
theorem test_rne32_edges : rne32 (2 ^ 128 - 2 ^ 103) 1 = 0x7F800000 ∧ rne32 (2 ^ 128 - 2 ^ 103 - 1) 1 = 0x7F7FFFFF ∧
    rne32 1 (2 ^ 149) = 0x00000001 ∧ rne32 1 (2 ^ 150) = 0x00000000 ∧ rne32 3 (2 ^ 150) = 0x00000002 ∧
    rne32 (2 ^ 24 + 1) 1 = 0x4B800000 ∧ rne32 (-(2 ^ 24 + 3)) 1 = 0xCB800002 := by decide
theorem test_rne32_keeps_values : [0x00000001, 0x007FFFFF, 0x00800000, 0x3F800001, 0xBF7FFFFF, 0x7F7FFFFF,
    0xFF7FFFFF].all (fun v => rne32 (valUnits v) unitsPerOne == v) = true := by decide
-- Vectors L2-S13 to L2-S15: BIN_WIDTH of the reference and the small instance.
theorem test_bin_width : (regRead State.reset .binWidth, regRead small .binWidth,
    regRead { State.reset with sampleRate := 0x473B8000 } .binWidth,
    regRead { State.reset with sampleRate := 0x47BB8000 } .binWidth,
    regRead { State.reset with sampleRate := 0x447A0000 } .binWidth) =
    (0x41AC4400, 0x45AC4400, 0x41BB8000, 0x423B8000, 0x3EFA0000) := by decide
-- L1-10 and L2-X7: FHI at 44100, and the class-(c) clamps.
theorem test_design_clamps : clampFreq 0x472C4400 0x46EA6000 = 0x46AC4200 ∧ clampFreq 0x472C4400 0x7FC00000 = 0x3F800000 ∧
    clampFreq 0x472C4400 0x80000000 = 0x3F800000 ∧ clampGain 0x42C80000 = 0x41C00000 ∧ clampGain 0x80000000 = 0x80000000 ∧
    clampGain 0xFFC00000 = 0 ∧ clampQ 0xFF800000 = 0x3DCCCCCD ∧ clampQ 0x447A0000 = 0x41200000 ∧
    clampQ 0x7FC00000 = 0x3F800000 := by decide

/-! ## Registers and the window -/

-- Vectors L2-S3 to L2-S6 (CTRL), L2-S28 and L2-S29 (STATUS).
theorem test_ctrl_writes : ctrlWrite 0x5 0x7 = 0x5 ∧ ctrlWrite 0x5 0x0 = 0x0 ∧ ctrlWrite 0x0 0x6 = 0x0 ∧
    ctrlWrite 0x5 0xFFFFFFFB = 0x3 := by decide
theorem test_status_w1c : statusW1c 0x03 0x02 = 0x01 ∧ statusW1c 0x01 0xFFFFFFC0 = 0x01 := by decide
-- Vectors L2-S7 to L2-S27.
theorem test_register_writes :
    ((hostWriteReg small .sampleRate 0x7FC00001).sampleRate, (hostWriteReg small .sampleRate 0x80000000).sampleRate,
     (hostWriteReg small .sampleRate 0x7F800000).sampleRate, (hostWriteReg small .floorDb 0xC47A0000).floorDb,
     (hostWriteReg small .floorDb 0x40A00000).floorDb, (hostWriteReg small .floorDb 0x80000000).floorDb,
     (hostWriteReg small .fmin 0x00000000).fmin, (hostWriteReg small .fmax 0x49F42400).fmax,
     (hostWriteReg small .width 0xFFFFFFFF).width, (hostWriteReg small .bypass 0xFFFFFFFF).bypass,
     (hostWriteReg small .bypass 0x00000E08).bypass) =
    (0x472C4400, 0x447A0000, 0x493B8000, 0xC3700000, 0x00000000, 0x80000000, 0x3F800000, 0x49742400, 0x00001000,
     0x0000F1F7, 0x00000000) := by decide
theorem test_cfg : regRead State.reset .cfg = 0x00002C4B ∧ regRead small .cfg = 0x00002C43 := by decide
-- Vectors L2-B1 to L2-B8 and L2-B13 to L2-B18.
theorem test_loads : [0x02C, 0x0FC, 0x100, 0x200, 0x214, 0x280, 0x310, 0x320, 0x300000, 0x300010, 0x343FFC, 0x403FFC,
    0x404000, 0xFFFFFC].map (fun off => loadLoc small (locate off)) = [0, 0, 0, 0x3F800000, 0, 0x3F800000, 0, 0,
    0xC2400000, 0, 0, 0, 0, 0] := by decide
-- Vectors L2-B9 to L2-B12.
theorem test_stores : ([(0x200, 0x12345678), (0x10001C, 0x7F800001), (0x100020, 1), (0x200000, 0x3F800000)] : List (Nat × Word)).map
    (fun p => loadLoc (storeLoc small (locate p.1) p.2) (locate p.1)) = [0x3F800000, 0x7F800001, 0, 0] := by decide

/-! ## Steps -/

-- L2-B19: a misaligned write to CMD is a bus error and issues no command.
theorem test_misaligned_cmd : after (step (running (.write 0x019 4 1))) (fun t => (t.status, t.errcode, t.host.errorResponse))
    = some (0x20, 0x07, true) := by decide
-- L2-B21: a 16-bit read is a bus error and returns 0.
theorem test_short_read : after (step (running (.read 0x000 2))) (fun t => (t.status, t.host.lastRead)) = some (0x20, 0) := by
  decide
-- L2-S1 and P1: a read of ID.
theorem test_read_id : after (step (running (asmRd Build.small (.reg .id)))) (fun t => t.host.lastRead) = some 0x53524231 := by
  decide
-- P4: an illegal opcode through the bus; the host goes on.
theorem test_illegal_cmd : after (step (running (.write 0x018 4 0x00000002))) (fun t => (t.status, t.errcode, t.host.index))
    = some (0x01, 0x01, 1) := by decide
-- L1-1: the fully bypassed chain at 1000 Hz through the fetch of the host's question.
theorem test_fetch_word : after (step (State.withFetchWord { State.reset with arg0 := 0x447A0000 } 32 0x20))
    (fun t => t.result) = some 0x3F800000 := by decide
theorem test_table_words : [0x00, 0x01, 0x10, 0x11, 0x12, 0x13, 0x20, 0x21, 0x30, 0x31, 0x32, 0x33].map (decodeTableWord 32)
    = [some .nop, some .reset, some .chainReset, some (.designLowcut 0), some .designPeak, some (.designHighcut 0),
       some .magAt, some .sweep, some (.ingest 0 0), some (.produce 0), some (.pop 0), some (.clear 0)] := by decide
-- R123: BZ takes the branch on a last-read value of 0.
theorem test_bz : after (step (running (.bz 7))) (fun t => t.host.index) = some 7 := by decide
-- R121: PUSHBLK is its staging writes and one INGEST.
theorem test_pushblk : asmPushblk Build.small .c1 [5, 6] = [.write 0x140000 4 5, .write 0x140004 4 6,
    .write 0x018 4 0x00020130] := by decide

/-! ## Commands -/

-- R151's example.
theorem test_nop : after (exec .nop { small with result := 1 }) (fun t => t.result) = some 0 := by decide
-- R152's example: RESET restores CTRL, FLOOR_DB and FQSTAT.
theorem test_reset : after (exec .reset { small with ctrl := 0, floorDb := 0, ch0 := { fq := [[0]], fresh := true, drop := 3 } })
    (fun t => (t.ctrl, t.floorDb, regRead t .fqstat)) = some (0x5, 0xC2400000, 0) := by decide
-- L2-D19.
theorem test_chain_reset : after (exec .chainReset { small with bypass := 0, coef := Vector.replicate 9 default })
    (fun t => (t.bypass, t.coef[4])) = some (0x0000F1F7, { b0 := 0x3F800000, b1 := 0, b2 := 0, a1 := 0, a2 := 0 }) := by
  decide
-- L2-D2: BYPASS after an order 2 low-cut; L2-X4: order 0 rejected with STRICT = 1.
theorem test_lowcut_bypass : after (exec (.designLowcut 2) small) (fun t => t.bypass) = some 0x0000F1C7 := by decide
theorem test_lowcut_order0 : after (exec (.designLowcut 0) small) (fun t => (t.status, t.errcode, t.bypass))
    = some (0x01, 0x05, 0x0000F1F7) := by decide
-- L2-D6, and L2-X4: order 5 clamped to 4 with STRICT = 0.
theorem test_highcut_bypass : after (exec (.designHighcut 2) small) (fun t => t.bypass) = some 0x0000C1F7 := by decide
theorem test_highcut_order5 : after (exec (.designHighcut 5) { small with ctrl := 4 })
    (fun t => (t.status, t.errcode, t.bypass)) = some (0x02, 0x05, 0x000001F7) := by decide
-- L2-D10.
theorem test_peak_bypass : after (exec .designPeak small) (fun t => (t.bypass, t.result)) = some (0x0000F0F7, 0) := by decide

/-- `small` with a section 0 included. -/
def withLowcut (c : Coefs) (f : Word) : State :=
  { small with coef := small.coef.set 0 c, bypass := 0x0000F1E6, arg0 := f }

-- L2-M9: a pole at 0 Hz and at fs with the coefficients of L2-D15, none at 1 Hz.
theorem test_pole : ([0x00000000, 0x472C4400] : List Word).map (fun f => after (exec .magAt
    (withLowcut { b0 := 0x3F7FF966, b1 := 0xBFFFF966, b2 := 0x3F7FF966, a1 := 0xBFFFF966, a2 := 0x3F7FF2CC } f))
    (fun t => (t.result, t.status))) = [some (0x7FC00000, 0x10), some (0x7FC00000, 0x10)] ∧
    sectionHasPole 0x3F800000 0x472C4400
      { b0 := 0x3F7FF966, b1 := 0xBFFFF966, b2 := 0x3F7FF966, a1 := 0xBFFFF966, a2 := 0x3F7FF2CC } = false := by decide
-- L2-M5 row 0 Hz with the coefficients of L2-D1: exactly +0; L2-M7 row 22050 Hz with those of L2-D5.
theorem test_zero : after (exec .magAt
    (withLowcut { b0 := 0x3F677685, b1 := 0xBFE77685, b2 := 0x3F677685, a1 := 0xBFE648CB, a2 := 0x3F51487E } 0))
    (fun t => (t.result, t.status)) = some (0, 0) ∧
    nxMag .reference [{ b0 := 0x3B96DD23, b1 := 0x3C16DD23, b2 := 0x3B96DD23, a1 := 0xBFE648CB, a2 := 0x3F51487E }] 0x46AC4400
      0x472C4400 = 0 := by decide
-- L2-M3 is for any BYPASS.
theorem test_mag_nonfinite : after (exec .magAt { small with arg0 := 0x7F800000 }) (fun t => (t.result, t.status, t.errcode))
    = some (0x7FC00000, 0x10, 0) := by decide
-- L1-1 and R206's example: four columns of a bypassed chain; RESP was 1 before.
theorem test_sweep : after (exec .sweep { holding .resp [1, 1, 1, 1, 1] with width := 4 })
    (fun t => (t.result, readWords t.mem 0x400000 5)) = some (4, [0, 0, 0, 0, 1]) := by decide
-- L2-R6: BAD_RANGE rejected with STRICT = 1, also for W = 0.
theorem test_sweep_range : after (exec .sweep { small with fmax := 0x41A00000 }) (fun t => (t.status, t.errcode))
    = some (0x01, 0x06) := by decide
-- R234's example; L2-A9 with STRICT = 0.
theorem test_ingest : after (exec (.ingest 0 3) (holding (.sb .c0) [7, 8, 9])) (fun t => (readBuf t (.rw .c0), t.result,
    regRead t .fqstat)) = some ([0, 0, 0, 0, 0, 7, 8, 9], 3, 0x00010000) := by decide
theorem test_ingest_clamped : after (exec (.ingest 0 9) { holding (.sb .c0) [1, 2, 3, 4, 5, 6, 7, 8] with ctrl := 4 })
    (fun t => (readBuf t (.rw .c0), t.result, t.status, t.errcode)) = some ([1, 2, 3, 4, 5, 6, 7, 8], 8, 0x02, 0x04) := by
  decide

/-- A channel with new samples. -/
def freshChan : Chan := { fq := [], fresh := true, drop := 0 }

-- L2-A1: zeros under Blackman-Harris, and the impulse at n = 0 under Hann, give the floor in every bin.
theorem test_produce_floor : after (exec (.produce 0) { holding (.rw .c0) [0x3F800000] with ch0 := freshChan, ctrl := 3 })
    (fun t => (t.ch0.fq, t.ch0.fresh, t.result, t.status))
    = some ([[0xC2400000, 0xC2400000, 0xC2400000, 0xC2400000]], false, 1, 0) := by decide
-- L2-X6 and L2-A3: a NaN sample with a full queue.
theorem test_produce_full : after (exec (.produce 0) { holding (.rw .c0) [0x3F800000, 0x7FC00000] with
      ch0 := { fq := [[1], [2], [3], [4]], fresh := true, drop := 0xFFFF } })
    (fun t => (t.ch0.fq, t.ch0.drop, t.status)) = some ([[2], [3], [4],
      [0xC2400000, 0xC2400000, 0xC2400000, 0xC2400000]], 0xFFFF, 0x14) := by decide
-- L2-A4: FLT_MAX eight times under the rectangular window overflows bin 0.
theorem test_produce_overflow : after (exec (.produce 0)
    { holding (.rw .c0) (List.replicate 8 0x7F7FFFFF) with ch0 := freshChan, ctrl := 1 })
    (fun t => (t.status, (t.ch0.fq.getD 0 []).getD 0 0)) = some (0x10, 0xC2400000) := by decide
-- L2-A6, and P3's pop.
theorem test_pop_empty : after (exec (.pop 1) { small with result := 9 }) (fun t => (t.result, readBuf t (.fout .c1)))
    = some (0, [0xC2400000, 0xC2400000, 0xC2400000, 0xC2400000]) := by decide
theorem test_pop : after (exec (.pop 0) { small with ch0 := { fq := [[1, 2, 3, 4], [5, 6, 7, 8]], fresh := false, drop := 0 } })
    (fun t => (t.result, readBuf t (.fout .c0), t.ch0.fq, readBuf t (.fout .c1))) = some (1, [1, 2, 3, 4], [[5, 6, 7, 8]],
      [0xC2400000, 0xC2400000, 0xC2400000, 0xC2400000]) := by decide
-- L2-A12.
theorem test_clear : after (exec (.clear 0) { holding (.rw .c0) [1, 2, 3] with
      status := 0x04
      ch0 := { fq := [[1], [2]], fresh := true, drop := 1 } })
    (fun t => (t.ch0, readBuf t (.rw .c0), t.mem, t.status))
    = some ({ fq := [], fresh := false, drop := 0 }, [0, 0, 0, 0, 0, 0, 0, 0], [], 0x04) := by decide

/-! ## Witnesses: states and operands that meet all hypotheses of a statement together, one for each of its clauses -/

/-- A state in use: samples, a queued frame, a sweep width and a mapped byte. -/
def used : State :=
  { small with
    width := 4
    ch0 := { fq := [[0, 0xC2400000, 0, 0]], fresh := true, drop := 1 }
    mem := [(0x100000, 1)] }

/-- `used` with the host about to run one statement. -/
def rich (st : HostStmt) : State := { used with host := (running st).host }

theorem used_inv : Inv used where
  build := by decide
  ctrl := ⟨by decide, by decide⟩
  status := by decide
  errcode := by decide
  sampleRate := ⟨by decide, by decide, by decide⟩
  floorDb := ⟨by decide, by decide, by decide⟩
  respFloorDb := ⟨by decide, by decide, by decide⟩
  fmin := ⟨by decide, by decide, by decide⟩
  fmax := ⟨by decide, by decide, by decide⟩
  width := by decide
  bypass := by decide
  coef := fun i => by
    have h : used.coef[i] = identityCoefs := by simp [used, small, State.resetOf]
    rw [h]; exact identity_finite
  ch0 := ⟨by decide, fun f hf => by
    have h : f = [0, 0xC2400000, 0, 0] := by simpa [used] using hf
    subst h; exact ⟨rfl, by simp [isFinite, f32Mag]⟩⟩
  ch1 := ⟨by decide, fun f hf => nomatch hf⟩
  mem := ⟨by decide, fun c hc => ⟨.sb .c0, by
    have h : c = (0x100000, 1) := by simpa [used] using hc
    subst h; decide⟩⟩

theorem rich_inv (st : HostStmt) : Inv (rich st) := inv_withHost used_inv _

theorem at_running (st : HostStmt) : AtStatement (running st) st := ⟨rfl, rfl⟩

theorem witness_DecodeOfEncode : (Instr.ingest 3 0xFFFF).wellFormed = true ∧ (Instr.designLowcut 0).wellFormed = true := by
  decide
theorem witness_EncodeOfDecode : decode 0x02000130 = .ok (.ingest 1 512) := by decide
theorem witness_IllegalOpcodeIsRejected : fieldOpc 0x02 ∉ assignedOpcodes ∧ fieldOpc 0xFFFFFFFF ∉ assignedOpcodes := by
  decide
theorem witness_ReservedFieldIsRejected :
    (fieldOpc 0x0430 ∈ assignedOpcodes ∧ fieldRsv 0x0430 ≠ 0) ∧
    (fieldOpc 0x0321 ∈ assignedOpcodes ∧ fieldOpc 0x0321 ∉ [0x30, 0x31, 0x32, 0x33] ∧ fieldCh 0x0321 ≠ 0) ∧
    (fieldOpc 0x00010031 ∈ assignedOpcodes ∧ fieldOpc 0x00010031 ∉ [0x11, 0x13, 0x30] ∧ fieldImm 0x00010031 ≠ 0) := by
  decide
theorem witness_BadChannelIsRejected :
    (fieldOpc 0xFFFF0230 ∈ [0x30, 0x31, 0x32, 0x33] ∧ fieldRsv 0xFFFF0230 = 0 ∧
      (fieldOpc 0xFFFF0230 ≠ 0x30 → fieldImm 0xFFFF0230 = 0) ∧ 2 ≤ fieldCh 0xFFFF0230) ∧
    (fieldOpc 0x0331 ∈ [0x30, 0x31, 0x32, 0x33] ∧ fieldRsv 0x0331 = 0 ∧
      (fieldOpc 0x0331 ≠ 0x30 → fieldImm 0x0331 = 0) ∧ 2 ≤ fieldCh 0x0331) := by decide
theorem witness_StepRunsTheDecodedCommand :
    (AtStatement (running (.write 0x018 4 0x00020011)) (.write (small.build.srbBase + 0x018) 4 0x00020011) ∧
      decode 0x00020011 = .ok (.designLowcut 2)) ∧
    (AtStatement (running (.write 0x018 4 0x02)) (.write (small.build.srbBase + 0x018) 4 0x02) ∧
      decode 0x02 = .error .illegalOpcode) :=
  ⟨⟨at_running _, by decide⟩, ⟨at_running _, by decide⟩⟩
theorem witness_StepServesHostAccesses :
    (0x00C < 0x1000000 ∧ 0x00C % 4 = 0 ∧ 0x00C ≠ 0x018 ∧
      AtStatement (running (.write 0x00C 4 7)) (.write (small.build.srbBase + 0x00C) 4 7)) ∧
    (0xFFFFFC < 0x1000000 ∧ 0xFFFFFC % 4 = 0 ∧
      AtStatement (running (.read 0xFFFFFC 4)) (.read (small.build.srbBase + 0xFFFFFC) 4)) :=
  ⟨⟨by decide, by decide, by decide, at_running _⟩, by decide, by decide, at_running _⟩
theorem witness_BusErrorOnlyRecords :
    (0x019 < 0x1000000 ∧ (4 ≠ 4 ∨ 0x019 % 4 ≠ 0) ∧
      AtStatement (running (.write 0x019 4 1)) (.write (small.build.srbBase + 0x019) 4 1)) ∧
    (0xFFFFFF < 0x1000000 ∧ (1 ≠ 4 ∨ 0xFFFFFF % 4 ≠ 0) ∧
      AtStatement (running (.read 0xFFFFFF 1)) (.read (small.build.srbBase + 0xFFFFFF) 1)) :=
  ⟨⟨by decide, by decide, at_running _⟩, by decide, by decide, at_running _⟩
theorem witness_HostBranchesMoveOnlyTheHost :
    AtStatement (running (.bnz 3)) (.bnz 3) ∧ AtStatement (running (.bz 3)) (.bz 3) ∧
    AtStatement (running (.jmp 3)) (.jmp 3) ∧ AtStatement (running .halt) .halt :=
  ⟨at_running _, at_running _, at_running _, at_running _⟩
theorem witness_StepKeepsInvariant :
    (Inv (rich (.write 0x018 4 0x31)) ∧ ∃ t, step (rich (.write 0x018 4 0x31)) = .next t) ∧
    (Inv (rich (.write 0x030 4 0x7F800000)) ∧ ∃ t, step (rich (.write 0x030 4 0x7F800000)) = .next t) :=
  ⟨⟨rich_inv _, _, rfl⟩, rich_inv _, _, rfl⟩
theorem witness_ResetHasInvariant : Build.legal { k := 3, fqCap := 1, j := 0, srbBase := 0, nx := .reference } = true ∧
    Build.legal { k := 15, fqCap := 15, j := 15, srbBase := 0xFF000000, nx := .other 1 } = true := by decide
theorem witness_ResetStateValues : Build.legal Build.reference = true ∧ Build.legal Build.small = true := by decide
theorem witness_StepKeepsBuild : ∃ t, step (running (.write 0x018 4 0x01)) = .next t := ⟨_, rfl⟩
theorem witness_ResetSourcesResetTheBlock :
    (running .assertReset).host.program[(running .assertReset).host.index]? = some .assertReset ∧
    (running .releaseReset).host.program[(running .releaseReset).host.index]? = some .releaseReset := ⟨rfl, rfl⟩
theorem witness_NopClearsResult : (fieldOpc 0x100 = 0x00 ∧ (0x100 : Word) ≠ 0) ∧
    (fieldOpc 0x80000000 = 0x00 ∧ (0x80000000 : Word) ≠ 0) := by decide
theorem witness_CutsDesignTheirSections : (1 ≤ 1 ∧ 1 ≤ 4) ∧ (1 ≤ 4 ∧ 4 ≤ 4) := by decide
theorem witness_OrderOutOfRange : (0 = 0 ∨ 5 ≤ 0) ∧ (5 = 0 ∨ 5 ≤ 5) ∧ small.ctrl.getLsbD 0 = true ∧
    ({ small with ctrl := 4 } : State).ctrl.getLsbD 0 = false := by decide
theorem witness_FrequencyClamp :
    InRange 0x447A0000 sampleRateLow sampleRateHigh ∧ InRange 0x493B8000 sampleRateLow sampleRateHigh ∧
    isNaN 0x7FC00000 = true ∧
    (isNaN 0x3F7FFFFF = false ∧ f32Key 0x3F7FFFFF < f32Key 0x3F800000) ∧
    (isNaN 0x43F98001 = false ∧ f32Key (freqHigh 0x447A0000) < f32Key 0x43F98001) ∧
    (isNaN 0x43F98000 = false ∧ f32Key 0x3F800000 ≤ f32Key 0x43F98000 ∧
      f32Key 0x43F98000 ≤ f32Key (freqHigh 0x447A0000)) ∧
    (isNaN 0x3F800000 = false ∧ f32Key 0x3F800000 ≤ f32Key 0x3F800000 ∧
      f32Key 0x3F800000 ≤ f32Key (freqHigh 0x447A0000)) :=
  ⟨⟨by decide, by decide, by decide⟩, ⟨by decide, by decide, by decide⟩, by decide, by decide, by decide, by decide,
    by decide⟩
theorem witness_Legalised : isNaN 0xFFC00000 = true ∧
    (isNaN 0xC1C00001 = false ∧ f32Key 0xC1C00001 < f32Key 0xC1C00000) ∧
    (isNaN 0x41C00001 = false ∧ f32Key 0x41C00000 < f32Key 0x41C00001) ∧
    (isNaN 0xC1C00000 = false ∧ f32Key 0xC1C00000 ≤ f32Key 0xC1C00000 ∧ f32Key 0xC1C00000 ≤ f32Key 0x41C00000) ∧
    (isNaN 0x41C00000 = false ∧ f32Key 0xC1C00000 ≤ f32Key 0x41C00000 ∧ f32Key 0x41C00000 ≤ f32Key 0x41C00000) := by
  decide

/-- A section with a pole at 0 Hz and no zero there. -/
def poleSection : Coefs := { b0 := 0x3F800000, b1 := 0, b2 := 0, a1 := 0xBF800000, a2 := 0 }

theorem witness_MagAtResult :
    isFinite ({ small with arg0 := 0x7F800000 } : State).arg0 = false ∧
    (isFinite small.arg0 = true ∧ includedSections small = []) ∧
    (isFinite (withLowcut poleSection 0).arg0 = true ∧
      ∃ c ∈ includedSections (withLowcut poleSection 0), sectionHasPole 0 small.sampleRate c = true) ∧
    (isFinite (withLowcut identityCoefs 0x447A0000).arg0 = true ∧
      includedSections (withLowcut identityCoefs 0x447A0000) ≠ [] ∧
      ∀ c ∈ includedSections (withLowcut identityCoefs 0x447A0000),
        sectionHasPole 0x447A0000 small.sampleRate c = false) := by decide
theorem witness_SweepWritesItsColumns : f32Lt (rich .halt).fmin (rich .halt).fmax = true ∧
    (rich .halt).width.toNat ≤ Build.wmax (rich .halt).build := by decide
theorem witness_SweepWritesItsColumns_range :
    (f32Lt small.fmax small.fmin = false ∧ ({ small with fmin := small.fmax } : State).ctrl.getLsbD 0 = true) ∧
    f32Lt ({ small with fmin := small.fmax, ctrl := 4, width := 0x1000 } : State).fmin small.fmax = false ∧
    ({ small with fmin := small.fmax, ctrl := 4, width := 0x1000 } : State).ctrl.getLsbD 0 = false ∧
    ({ small with fmin := small.fmax, ctrl := 4, width := 0x1000 } : State).width.toNat ≤ Build.wmax small.build := by
  decide
theorem witness_BypassedChainSweepsToZero : Inv (rich .halt) ∧ f32Lt (rich .halt).fmin (rich .halt).fmax = true ∧
    includedSections (rich .halt) = [] := ⟨rich_inv _, by decide, by decide⟩
theorem witness_SweepIsIdempotent : ∃ t, exec .sweep (rich .halt) = .next t := ⟨_, rfl⟩
theorem witness_IngestShiftsTheWindow : (1 ≤ 1 ∧ 1 ≤ Build.n small.build) ∧ (1 ≤ 8 ∧ 8 ≤ Build.n small.build) := by decide
theorem witness_IngestShiftsTheWindow_length : Build.n small.build < 9 ∧ small.ctrl.getLsbD 0 = true ∧
    Build.n ({ small with ctrl := 4 } : State).build < 0xFFFF ∧ ({ small with ctrl := 4 } : State).ctrl.getLsbD 0 = false := by
  decide
theorem witness_WindowKeepsTheNewest :
    Build.legal small.build = true ∧ (∀ b ∈ ([[1, 2, 3, 4, 5, 6, 7, 8], [], [9]] : List (List Word)),
      b.length ≤ Build.n small.build) ∧
    Build.n small.build ≤ ([[1, 2, 3, 4, 5, 6, 7, 8], [], [9]] : List (List Word)).flatten.length := by decide
-- R303: two blocks through SB, one after the other.
theorem test_ingest_blocks : (ingestAll small .c1 [[1, 2, 3, 4, 5, 6, 7], [8, 9]]).map (fun t => readBuf t (.rw .c1))
    = some [2, 3, 4, 5, 6, 7, 8, 9] := by decide
theorem witness_FrameOfTheWindow :
    (∃ v ∈ readBuf (holding (.rw .c0) [0x7FC00000]) (.rw .c0), isFinite v = false) ∧
    (∀ v ∈ readBuf (holding (.rw .c0) [0x7F7FFFFF]) (.rw .c0), isFinite v = true) ∧ isFinite small.floorDb = true :=
  ⟨⟨0x7FC00000, by decide, by decide⟩, List.all_eq_true.1 (by decide), by decide⟩
theorem witness_ProduceQueuesOneFrame :
    (State.chan small .c1).fresh = false ∧
    ((State.chan { small with ch0 := { fq := [[1], [2], [3], [4]], fresh := true, drop := 0xFFFF } } .c0).fresh = true ∧
      (State.chan { small with ch0 := { fq := [[1], [2], [3], [4]], fresh := true, drop := 0xFFFF } } .c0).fq.length
        = small.build.fqCap) ∧
    ((State.chan (rich .halt) .c0).fresh = true ∧
      (State.chan (rich .halt) .c0).fq.length ≠ (rich .halt).build.fqCap) := by decide
theorem witness_QueueKeepsTheNewestFrames : 1 ≤ (rich .halt).build.fqCap ∧
    (State.chan (rich .halt) .c0).fq.length ≤ (rich .halt).build.fqCap := by decide
theorem witness_PopMovesTheHead : (State.chan small .c0).fq = [] ∧
    (State.chan (rich .halt) .c0).fq = [0, 0xC2400000, 0, 0] :: [] ∧
    ([0, 0xC2400000, 0, 0] : Frame).length = Build.nb (rich .halt).build := ⟨rfl, rfl, rfl⟩
theorem witness_ChannelsAreIndependent : Inv (rich .halt) ∧ Channel.c0 ≠ Channel.c1 ∧
    (∃ t, exec (.produce (channelIndex .c0)) (rich .halt) = .next t) ∧
    (∃ t, exec (.pop (channelIndex .c0)) (rich .halt) = .next t) ∧
    (∃ t, exec (.clear (channelIndex .c0)) (rich .halt) = .next t) ∧
    (∃ t, exec (.ingest (channelIndex .c0) 3) (rich .halt) = .next t) :=
  ⟨rich_inv _, by decide, ⟨_, rfl⟩, ⟨_, rfl⟩, ⟨_, rfl⟩, ⟨_, rfl⟩⟩
theorem witness_Commands : Instr.sweep ≠ .reset ∧ (∃ t, exec .sweep (rich .halt) = .next t) ∧
    (∃ t, exec .reset (rich .halt) = .next t) := ⟨by decide, ⟨_, rfl⟩, ⟨_, rfl⟩⟩
theorem witness_CtrlWriteIsLegalised : small.ctrl.toNat < 8 ∧ State.win small ≠ 3 := by decide
theorem witness_IntegerRegisterWrites : small.build.j ≤ 15 := by decide
theorem witness_ReservedOffsetsReadZero :
    [0x02C, 0x058, 0x1FC, 0x214, 0x31C, 0x320, 0x0FFFFC, 0x180000, 0x1FFFFC, 0x280000, 0x2FFFFC, 0x380000, 0x3FFFFC,
      0x440000, 0xFFFFFC, 0x100020, 0x27FFFC, 0x300010, 0x37FFFC, 0x404000, 0x43FFFC].all (fun off =>
      decide (off < 0x1000000) && decide (off % 4 = 0) &&
      decide (off = 0x02C ∨ (0x058 ≤ off ∧ off < 0x200) ∨ (0x200 ≤ off ∧ off < 0x320 ∧ 5 ≤ off / 4 % 8) ∨
        (0x320 ≤ off ∧ off < 0x100000) ∨ (0x180000 ≤ off ∧ off < 0x200000) ∨ (0x280000 ≤ off ∧ off < 0x300000) ∨
        (0x380000 ≤ off ∧ off < 0x400000) ∨ 0x440000 ≤ off ∨
        (0x100000 ≤ off ∧ off < 0x300000 ∧ Build.n small.build ≤ off % 0x40000 / 4) ∨
        (0x300000 ≤ off ∧ off < 0x380000 ∧ Build.nb small.build ≤ off % 0x40000 / 4) ∨
        (0x400000 ≤ off ∧ off < 0x440000 ∧ Build.wmax small.build ≤ off % 0x40000 / 4))) = true := by decide
theorem witness_LocationOffsetsNameThem : Build.legal Build.small = true ∧ 7 < 2 ^ Build.small.k ∧
    3 < 2 ^ Build.small.k / 2 ∧ 4095 < 2 ^ Build.small.j := by decide
theorem witness_LocationOffsetsNameThem_named : Loc.buf (.rw .c1) 7 ≠ .reserved ∧
    ∀ f i, Loc.buf (.rw .c1) 7 = .buf f i → i < bufLen Build.small f := by
  refine ⟨by decide, fun f i h => ?_⟩
  cases h
  decide
theorem witness_HostReadsReturnTheState : Build.legal (rich .halt).build = true ∧ Inv (rich .halt) ∧
    3 < bufLen (rich .halt).build (.fout .c0) := ⟨by decide, rich_inv _, by decide⟩
theorem witness_StagingWordsAreVerbatim : Build.legal small.build = true ∧ 7 < Build.n small.build ∧
    Loc.buf (.sb .c0) 6 ≠ .buf (.sb .c0) 7 := by decide
theorem witness_BinWidthIsExact : Build.legal small.build = true ∧ InRange small.sampleRate sampleRateLow sampleRateHigh :=
  ⟨by decide, by decide, by decide, by decide⟩
theorem witness_RoundingIsNearestEven_kept : (isFinite 0x00000001 = true ∧ (0x00000001 : Word) ≠ 0x80000000) ∧
    (isFinite 0xFF7FFFFF = true ∧ (0xFF7FFFFF : Word) ≠ 0x80000000) := by decide
theorem witness_FloorClamp : isFinite 0xC2400000 = true ∧ (isNaN 0x7FC00000 = true ∨ f32Lt 0x7FC00000 0xC2400000 = true) ∧
    f32Lt 0xC2400001 0xC2400000 = true ∧ isNaN 0xC2400000 = false ∧ f32Lt 0xC2400000 0xC2400000 = false := by decide
theorem witness_PoleTestIsExact : Ideal.FiniteSection poleSection ∧ isFinite 0 = true ∧ isFinite 0x472C4400 = true ∧
    valUnits 0x472C4400 ≠ 0 := ⟨⟨by decide, by decide, by decide, by decide, by decide⟩, by decide, by decide, by decide⟩
theorem witness_BinOverflowTestIsSound :
    (∃ m, 3 ≤ m ∧ m ≤ 15 ∧ (List.replicate 8 (0 : Word)).length = 2 ^ m) ∧
    (∀ v ∈ List.replicate 8 (0 : Word), isFinite v = true) ∧ 3 < (List.replicate 8 (0 : Word)).length / 2 ∧
    binCannotOverflow (List.replicate 8 0x3F800000) 2 = true ∧
    binZeroOverflows (List.replicate 8 0x7F7FFFFF) 0 0 = true ∧ windowedSilence (List.replicate 8 0) 1 = true :=
  ⟨⟨3, by decide, by decide, by decide⟩, fun v hv => by rw [List.eq_of_mem_replicate hv]; decide, by decide, by decide,
    by decide, by decide⟩
theorem witness_NumericsExactClauses :
    (∃ c ∈ [poleSection], sectionHasPole 0 0x472C4400 c = true) ∧
    (∀ c ∈ [identityCoefs], sectionHasPole 0 0x472C4400 c = false) ∧
    (∃ c ∈ [{ identityCoefs with b1 := 0xBF800000 }], sectionHasZero 0 0x472C4400 c = true) ∧
    (isFinite 0x3F7FFFFF = true ∧ f32Lt 0 0x3F7FFFFF = true ∧ f32Lt 0x3F7FFFFF 0x3F800000 = true) ∧
    (isFinite 0x3F800001 = true ∧ f32Lt 0 0x3F800001 = true ∧ f32Lt 0x3F800000 0x3F800001 = true) ∧
    (isNaN 0 = false ∧ isNaN 0x7F800000 = false ∧ f32Neg 0 = false ∧ f32Neg 0x7F800000 = false ∧
      f32Key 0 ≤ f32Key 0x7F800000) := by decide
theorem witness_NumericsExactClauses_columns : InRange 0x3F800000 sweepFreqLow sweepFreqHigh ∧
    InRange 0x49742400 sweepFreqLow sweepFreqHigh :=
  ⟨⟨by decide, by decide, by decide⟩, by decide, by decide, by decide⟩

/-- The value of a word, from its value in units of `2^-149`. -/
theorem val_of_units {v : Word} {n : Int} (h : valUnits v = n * 2 ^ 149) : Ideal.val v = n := by
  rw [Ideal.val, h, Int.cast_mul, Int.cast_pow, Int.cast_ofNat]
  exact mul_div_cancel_right₀ (n : ℝ) (by positivity : (2 : ℝ) ^ 149 ≠ 0)

theorem val_44100 : Ideal.val 0x472C4400 = 44100 := by
  simpa using val_of_units (v := 0x472C4400) (n := 44100) (by decide)
theorem val_1000 : Ideal.val 0x447A0000 = 1000 := by
  simpa using val_of_units (v := 0x447A0000) (n := 1000) (by decide)
theorem val_6 : Ideal.val 0x40C00000 = 6 := by
  simpa using val_of_units (v := 0x40C00000) (n := 6) (by decide)
theorem val_1 : Ideal.val 0x3F800000 = 1 := by
  simpa using val_of_units (v := 0x3F800000) (n := 1) (by decide)

theorem legal_rate : Ideal.LegalRate 0x472C4400 := ⟨by decide, by rw [val_44100]; norm_num, by rw [val_44100]; norm_num⟩
theorem legal_freq : Ideal.LegalFreq 0x447A0000 0x472C4400 :=
  ⟨by decide, by rw [val_1000]; norm_num, by rw [val_1000, val_44100]; norm_num⟩
theorem legal_column : Ideal.LegalColumnFreq 0x447A0000 :=
  ⟨by decide, by rw [val_1000]; norm_num, by rw [val_1000]; norm_num⟩

theorem finite_of_coefs {c : Coefs} (h : [c.b0, c.b1, c.b2, c.a1, c.a2].all isFinite = true) : Ideal.FiniteSection c := by
  simpa [Ideal.FiniteSection] using h

theorem witness_ReferenceRoundsTheIdeals :
    Ideal.LegalCut 0x447A0000 0x472C4400 4 3 ∧ Ideal.LegalPeak 0x447A0000 0 0x3F800000 0x472C4400 ∧
    (Ideal.LegalMag [poleSection] 0 0x472C4400 ∧ Ideal.HasPole [poleSection] 0 0x472C4400) ∧
    (Ideal.LegalMag [identityCoefs] 0 0x472C4400 ∧ ¬Ideal.HasPole [identityCoefs] 0 0x472C4400) ∧
    (Ideal.LegalColumn 0x447A0000 0x447A0000 4 ∧ 3 < 4) ∧ Ideal.LegalBin (List.replicate 8 0x80000000) 2 3 ∧
    (isFinite 0x3F800001 = true ∧ f32Lt 0 0x3F800001 = true) := by
  have pk : Ideal.val 0x3DCCCCCD ≤ 1 := by
    rw [Ideal.val, div_le_one (by positivity)]
    exact_mod_cast (by decide : valUnits 0x3DCCCCCD ≤ 2 ^ 149)
  refine ⟨⟨legal_rate, legal_freq, by decide, by decide, by decide⟩,
    ⟨legal_rate, legal_freq, ⟨by decide, by rw [Ideal.val_zero]; norm_num⟩,
      ⟨by decide, by rw [val_1]; exact pk, by rw [val_1]; norm_num⟩⟩,
    ⟨⟨by decide, fun c hc => ?_, by decide, legal_rate⟩, poleSection, by simp, ?_⟩,
    ⟨⟨by decide, fun c hc => ?_, by decide, legal_rate⟩, ?_⟩,
    ⟨⟨legal_column, legal_column, le_refl _, by decide⟩, by decide⟩,
    ⟨fun v hv => by rw [List.eq_of_mem_replicate hv]; decide, ⟨3, by decide, by decide, by decide⟩, by decide, by decide⟩,
    by decide, by decide⟩
  · rw [List.mem_singleton.1 hc]; exact finite_of_coefs (by decide)
  · have h1 : Ideal.val 0xBF800000 = -1 := by simpa using val_of_units (v := 0xBF800000) (n := -1) (by decide)
    simp only [Ideal.denominator, Ideal.evalPoint, poleSection, h1, Ideal.val_zero]
    simp
  · rw [List.mem_singleton.1 hc]; exact finite_of_coefs (by decide)
  · rintro ⟨c, hc, h⟩
    rw [List.mem_singleton.1 hc] at h
    simp only [Ideal.denominator, identityCoefs, Ideal.val_zero] at h
    simp at h

theorem witness_DesignSeenThroughMagAt :
    (isFinite 0x447A0000 = true ∧ (∃ t, exec (.designLowcut 4) { small with bypass := 0x0000F1F6 } = .next t) ∧
      (0x0000F1F6 : Word).getLsbD 0 = false ∧ (0x0000F1F6 : Word).getLsbD 1 = true ∧
      (0x0000F1F6 : Word).getLsbD 2 = true) ∧
    ((∃ t, exec .designPeak { small with bypass := 0x0000F1F5 } = .next t) ∧
      (0x0000F1F5 : Word).getLsbD 0 = true ∧ (0x0000F1F5 : Word).getLsbD 1 = false ∧
      (0x0000F1F5 : Word).getLsbD 2 = true) ∧
    ((∃ t, exec (.designHighcut 1) { small with bypass := 0x0000F1F3 } = .next t) ∧
      (0x0000F1F3 : Word).getLsbD 0 = true ∧ (0x0000F1F3 : Word).getLsbD 1 = true ∧
      (0x0000F1F3 : Word).getLsbD 2 = false) :=
  ⟨⟨by decide, ⟨_, rfl⟩, by decide, by decide, by decide⟩, ⟨⟨_, rfl⟩, by decide, by decide, by decide⟩,
    ⟨⟨_, rfl⟩, by decide, by decide, by decide⟩⟩

/-- `small` set up for the source's peak test. -/
def peakTest : State :=
  { small with arg0 := 0x447A0000, arg1 := 0x40C00000, arg2 := 0x3F800000, bypass := 0x0000F1F5 }

theorem witness_PeakTestWithinTolerance : peakTest.sampleRate = 0x472C4400 ∧ peakTest.arg0 = 0x447A0000 ∧
    peakTest.arg1 = 0x40C00000 ∧ peakTest.arg2 = 0x3F800000 ∧ peakTest.bypass.getLsbD 0 = true ∧
    peakTest.bypass.getLsbD 1 = false ∧ peakTest.bypass.getLsbD 2 = true ∧ ∃ t, exec .designPeak peakTest = .next t :=
  ⟨rfl, rfl, rfl, rfl, by decide, by decide, by decide, _, rfl⟩
theorem witness_RoundingIsNearestEven : |(1 : ℝ)| < Ideal.overflowBound ∧ Ideal.overflowBound ≤ 2 ^ 128 := by
  unfold Ideal.overflowBound; norm_num
theorem witness_IdealGains : (0 : ℝ) < 1000 ∧ (1000 : ℝ) < 44100 / 2 ∧ (0 : ℝ) < 1 := by norm_num
theorem witness_IdealCutStages : 1 ≤ 1 ∧ 1 ≤ 4 ∧ 4 ≤ 4 := by decide

end Sys2Proof.Tests
end

section
/-! The build parameters are no part of what a step can change (00_scope.md R6). -/

namespace Sys2Proof.Machine

/-! ### Commands -/

theorem classD_build {α : Type} {s : State} {ok : Bool} {e : ErrCode} {x y : α} {go : α → State → State}
    (hgo : ∀ z t, (go z t).build = t.build) : (classD s ok e x y go).build = s.build := by
  rcases classD_cases s ok e x y go with ⟨-, h⟩ | ⟨-, -, h⟩ | ⟨-, -, h⟩ <;> rw [h] <;> simp [hgo]

theorem withChannel_build {s : State} {ch : Nat} {go : Channel → State} (hgo : ∀ c, (go c).build = s.build) :
    (withChannel s ch go).build = s.build := by
  rcases withChannel_cases s ch go with ⟨c, -, h⟩ | ⟨-, h⟩
  · rw [h, hgo]
  · rw [h, State.reject_build]

@[simp] theorem enqueue_build (s : State) (c : Channel) (f : Frame) : (enqueue s c f).build = s.build := by
  rcases enqueue_cases s c f with ⟨-, h⟩ | ⟨-, h⟩ <;> simp [h]

@[simp] theorem designCut_build (s : State) (base lo o : Nat) (f : Nat → Coefs) :
    (designCut s base lo o f).build = s.build := by simp [designCut]

@[simp] theorem sweepColumns_build (s : State) (hi : Word) : (sweepColumns s hi).build = s.build := by
  simp [sweepColumns]

@[simp] theorem ingestBlock_build (s : State) (c : Channel) (l : Nat) : (ingestBlock s c l).build = s.build := by
  unfold ingestBlock
  split <;> simp

@[simp] theorem produceFrame_build (s : State) (c : Channel) : (produceFrame s c).build = s.build := by
  unfold produceFrame
  split <;> simp [clearFresh]

@[simp] theorem popFrame_build (s : State) (c : Channel) : (popFrame s c).build = s.build := by
  unfold popFrame
  split <;> simp

@[simp] theorem clearChannel_build (s : State) (c : Channel) : (clearChannel s c).build = s.build := by
  simp [clearChannel]

/-- No command changes the build parameters. -/
theorem exec_build {i : Instr} {s t : State} (h : exec i s = .next t) : t.build = s.build := by
  cases i with
  | nop => cases h; rfl
  | reset => cases h; exact State.resetBlock_build s
  | chainReset => cases h; rfl
  | designLowcut imm => cases h; exact classD_build fun _ _ => designCut_build _ _ _ _ _
  | designPeak => cases h; rfl
  | designHighcut imm => cases h; exact classD_build fun _ _ => designCut_build _ _ _ _ _
  | magAt => cases h; split <;> simp
  | sweep => cases h; exact classD_build fun _ _ => sweepColumns_build _ _
  | ingest ch imm => cases h; exact withChannel_build fun c => classD_build fun _ _ => ingestBlock_build _ _ _
  | produce ch => cases h; exact withChannel_build fun c => produceFrame_build _ c
  | pop ch => cases h; exact withChannel_build fun c => popFrame_build _ c
  | clear ch => cases h; exact withChannel_build fun c => clearChannel_build _ c

/-! ### Host statements -/

/-- The state that an action hands on, if any, has the build parameters `b`. -/
def HostAction.HasBuild (b : Build) : HostAction → Prop
  | .done t => t.build = b
  | .run _ t => t.build = b
  | .stop _ => True

@[simp] theorem hostWriteReg_build (s : State) (r : Reg) (v : Word) : (hostWriteReg s r v).build = s.build := by
  cases r <;> rfl

@[simp] theorem storeLoc_build (s : State) (l : Loc) (v : Word) : (storeLoc s l v).build = s.build := by
  unfold storeLoc
  split
  · exact hostWriteReg_build _ _ _
  · split <;> simp
  all_goals rfl

theorem issue_hasBuild (s : State) (v : Word) : (issue s v).HasBuild s.build := by
  unfold issue
  split
  · exact State.reject_build _ _
  · rfl

theorem busRead_hasBuild (s : State) (off size : Nat) : (busRead s off size).HasBuild s.build := by
  unfold busRead
  split <;> simp [HostAction.HasBuild]

theorem busWrite_hasBuild (s : State) (off size : Nat) (v : Word) : (busWrite s off size v).HasBuild s.build := by
  unfold busWrite
  split
  · split
    · exact issue_hasBuild (State.answerWrite s false) v
    · simp [HostAction.HasBuild]
  · simp [HostAction.HasBuild]

theorem onWindow_hasBuild {s : State} {addr : Nat} {serve : Nat → HostAction}
    (h : ∀ off, (serve off).HasBuild s.build) : (onWindow s addr serve).HasBuild s.build := by
  unfold onWindow
  split
  · trivial
  · split
    · exact h _
    · trivial

theorem stmtAction_hasBuild (s : State) (st : HostStmt) : (stmtAction s st).HasBuild s.build := by
  cases st with
  | write addr size v => exact onWindow_hasBuild fun off => busWrite_hasBuild (State.nextStmt s) off size v
  | read addr size => exact onWindow_hasBuild fun off => busRead_hasBuild (State.nextStmt s) off size
  | bnz target => simp only [stmtAction, HostAction.HasBuild]; split <;> rfl
  | bz target => simp only [stmtAction, HostAction.HasBuild]; split <;> rfl
  | jmp target | halt | assertReset | releaseReset => rfl

theorem hostAction_hasBuild (s : State) : (hostAction s).HasBuild s.build := by
  unfold hostAction
  split
  · exact stmtAction_hasBuild s _
  · rfl

end Sys2Proof.Machine

open Sys2Proof Sys2Proof.Machine

/-- Settles O14: a statement's action keeps the build parameters, and so does the command it may run. -/
theorem stepKeepsBuild : Obligations.StepKeepsBuild := by
  intro s t hstep
  have hact := hostAction_hasBuild s
  rcases step_cases s with ⟨u, ha, hs⟩ | ⟨i, u, ha, hs⟩ | ⟨r, ha, hs⟩ <;> rw [ha] at hact <;> rw [hs] at hstep
  · cases hstep; exact hact
  · exact (exec_build hstep).trans hact
  · cases hstep

/-- Settles O52, by the two cases of `clampFloor`. -/
theorem floorClamp : Obligations.FloorClamp := by
  intro fl d hfl
  obtain ⟨hnan, hbelow⟩ := clampFloor_not_below (d := d) hfl
  refine ⟨hnan, hbelow, fun h => ?_, fun h1 h2 => ?_⟩
  · exact if_pos (by simpa using h)
  · exact if_neg (by simp [h1, h2])
end

section
/-! The magnitudes of binary32, and rounding a positive real to the nearest of them while the exponent is not bounded
above (00_scope.md R9, R10). -/

namespace Sys2Proof.Machine

/-! ### The magnitudes of binary32 in units of `2^-149` -/

theorem magUnits_of_lt {k : Nat} (h : k < 0x800000) : magUnits k = k := by
  simp [magUnits, Nat.div_eq_of_lt h]

theorem magUnits_normal {e f : Nat} (hf : f < 0x800000) :
    magUnits ((e + 1) * 0x800000 + f) = (0x800000 + f) * 2 ^ e := by
  have hd : ((e + 1) * 0x800000 + f) / 0x800000 = e + 1 := by omega
  have hm : ((e + 1) * 0x800000 + f) % 0x800000 = f := by omega
  simp [magUnits, hd, hm]

/-- Every magnitude is subnormal or has an exponent and a fraction (00_scope.md R9). -/
theorem subnormal_or_normal (k : Nat) :
    k < 0x800000 ∨ ∃ e f, f < 0x800000 ∧ k = (e + 1) * 0x800000 + f := by
  by_cases h : k < 0x800000
  · exact .inl h
  · exact .inr ⟨k / 0x800000 - 1, k % 0x800000, Nat.mod_lt _ (by decide), by omega⟩

/-- The values about a quantum of `2^E` units: `m` quanta have the magnitude bits `E·2^23 + m`, the end of the binade
included. -/
theorem magUnits_quanta {E m : Nat} (h : E = 0 ∨ 0x800000 ≤ m) (hm : m ≤ 0x1000000) :
    magUnits (E * 0x800000 + m) = m * 2 ^ E := by
  rcases Nat.lt_or_ge m 0x800000 with hlt | hge
  · obtain rfl : E = 0 := h.resolve_right (by omega)
    simpa using magUnits_of_lt hlt
  · rcases hm.lt_or_eq with hlt | heq
    · rw [show E * 0x800000 + m = (E + 1) * 0x800000 + (m - 0x800000) by omega, magUnits_normal (by omega),
        Nat.add_sub_cancel' hge]
    · rw [show E * 0x800000 + m = (E + 1 + 1) * 0x800000 + 0 by omega, magUnits_normal (by omega), heq, pow_succ]
      ring

theorem magUnits_lt_succ (k : Nat) : magUnits k < magUnits (k + 1) := by
  rcases subnormal_or_normal k with h | ⟨e, f, hf, rfl⟩
  · have hs := magUnits_quanta (E := 0) (m := k + 1) (.inl rfl) (by omega)
    rw [magUnits_of_lt h]
    simp at hs
    omega
  · have hs := magUnits_quanta (E := e) (m := 0x800000 + f + 1) (.inr (by omega)) (by omega)
    rw [show (e + 1) * 0x800000 + f + 1 = e * 0x800000 + (0x800000 + f + 1) by omega, hs, magUnits_normal hf]
    exact Nat.mul_lt_mul_of_pos_right (Nat.lt_succ_self _) (by positivity)

theorem magUnits_strictMono : StrictMono magUnits := strictMono_nat_of_lt_succ magUnits_lt_succ

/-- A magnitude lies on the grid of `2^E` units, or below the binade whose quantum that is. -/
theorem pow_dvd_magUnits_or_lt (E k : Nat) : 2 ^ E ∣ magUnits k ∨ magUnits k < 0x800000 * 2 ^ E := by
  rcases subnormal_or_normal k with h | ⟨e, f, hf, rfl⟩
  · right
    rw [magUnits_of_lt h]
    exact h.trans_le (Nat.le_mul_of_pos_right _ (by positivity))
  · rw [magUnits_normal hf]
    rcases Nat.lt_or_ge e E with hlt | hge
    · right
      calc (0x800000 + f) * 2 ^ e < 0x1000000 * 2 ^ e := Nat.mul_lt_mul_of_pos_right (by omega) (by positivity)
        _ = 0x800000 * 2 ^ (e + 1) := by rw [pow_succ]; ring
        _ ≤ 0x800000 * 2 ^ E := Nat.mul_le_mul_left _ (Nat.pow_le_pow_right (by decide) hlt)
    · exact .inl (Dvd.dvd.mul_left (pow_dvd_pow 2 hge) _)

end Sys2Proof.Machine

namespace Sys2Proof.Ideal
open Sys2Proof.Machine

/-! ### Rounding to a whole number -/

/-- The nearest whole number is at most a half away, and even when it is a half away. -/
theorem nearestEven_spec {t : ℝ} (ht : 0 ≤ t) :
    |(nearestEven t : ℝ) - t| ≤ 1 / 2 ∧ (|(nearestEven t : ℝ) - t| = 1 / 2 → Even (nearestEven t)) := by
  have hlo : (⌊t⌋₊ : ℝ) ≤ t := Nat.floor_le ht
  have hhi : t < ⌊t⌋₊ + 1 := Nat.lt_floor_add_one t
  unfold nearestEven
  split_ifs with hdown hup
  · rw [abs_sub_comm, abs_of_nonneg (by linarith)]
    exact ⟨hdown.le, fun h => absurd h hdown.ne⟩
  · push_cast
    rw [abs_of_nonneg (by linarith)]
    exact ⟨by linarith, fun h => by linarith⟩
  · have hhalf : t = ⌊t⌋₊ + 1 / 2 := by linarith
    constructor
    · rcases Nat.mod_two_eq_zero_or_one ⌊t⌋₊ with h | h
      · rw [h, abs_le]; constructor <;> push_cast <;> linarith
      · rw [h, abs_le]; constructor <;> push_cast <;> linarith
    · intro _
      rw [Nat.even_iff]
      omega

/-- No whole number is nearer than the nearest, which is even when another one is as near. -/
theorem nearestEven_nearest {t : ℝ} (ht : 0 ≤ t) (i : ℕ) :
    |(nearestEven t : ℝ) - t| ≤ |(i : ℝ) - t| ∧
    (|(i : ℝ) - t| = |(nearestEven t : ℝ) - t| → i ≠ nearestEven t → Even (nearestEven t)) := by
  obtain ⟨hle, heven⟩ := nearestEven_spec ht
  rcases eq_or_ne i (nearestEven t) with rfl | hne
  · exact ⟨le_refl _, fun _ h => absurd rfl h⟩
  · have hone : (1 : ℝ) ≤ |(i : ℝ) - nearestEven t| := by
      have : (1 : ℤ) ≤ |(i : ℤ) - nearestEven t| := Int.one_le_abs (by omega)
      exact_mod_cast this
    have htri : |(i : ℝ) - nearestEven t| ≤ |(i : ℝ) - t| + |(nearestEven t : ℝ) - t| := by
      rw [abs_sub_comm (nearestEven t : ℝ)]
      exact abs_sub_le _ _ _
    exact ⟨by linarith, fun htie _ => heven (by linarith)⟩

/-! ### The quantum -/

/-- The magnitude that has the bits `k`: the value of an `f32` but for its sign (00_scope.md R9). -/
noncomputable def magVal (k : ℕ) : ℝ := (magUnits k : ℝ) / 2 ^ 149

theorem magVal_strictMono : StrictMono magVal := fun _ _ h => by
  unfold magVal
  have := magUnits_strictMono h
  gcongr

theorem magVal_nonneg (k : ℕ) : 0 ≤ magVal k := by unfold magVal; positivity

@[simp] theorem magVal_zero : magVal 0 = 0 := by simp [magVal, magUnits]

theorem neg_149_le_quantumExp (x : ℝ) : -149 ≤ quantumExp x := le_max_right _ _

/-- A quantum is a whole number of units of `2^-149`. -/
theorem two_zpow_quantumExp (x : ℝ) : (2 : ℝ) ^ quantumExp x = 2 ^ (quantumExp x + 149).toNat / 2 ^ 149 := by
  have h := neg_149_le_quantumExp x
  have hn : ((quantumExp x + 149).toNat : ℤ) = quantumExp x + (149 : ℕ) := Int.toNat_of_nonneg (by omega)
  rw [eq_div_iff (by positivity), ← zpow_natCast 2 149, ← zpow_natCast, hn, zpow_add₀ (by norm_num)]

/-- A value has at most 24 significant bits above its quantum, and exactly 24 above the subnormals. -/
theorem quanta_bounds {x : ℝ} (hx : 0 < x) :
    x / 2 ^ quantumExp x < 2 ^ 24 ∧ (quantumExp x = -149 ∨ 2 ^ 23 ≤ x / 2 ^ quantumExp x) := by
  have hpos : (0 : ℝ) < 2 ^ quantumExp x := by positivity
  constructor
  · rw [div_lt_iff₀ hpos, ← zpow_natCast, ← zpow_add₀ (by norm_num)]
    calc x < (2 : ℕ) ^ (Int.log 2 x + 1) := Int.lt_zpow_succ_log_self (by decide) x
      _ ≤ 2 ^ (((24 : ℕ) : ℤ) + quantumExp x) := by
        refine zpow_le_zpow_right₀ (by norm_num) ?_
        have : Int.log 2 x - 23 ≤ quantumExp x := le_max_left _ _
        omega
  · rcases max_choice (Int.log 2 x - 23) (-149) with h | h
    · right
      rw [le_div_iff₀ hpos, ← zpow_natCast, ← zpow_add₀ (by norm_num),
        show ((23 : ℕ) : ℤ) + quantumExp x = Int.log 2 x by unfold quantumExp; omega]
      exact Int.zpow_log_le_self (by decide) hx
    · exact .inl h

/-- The number of quanta to which a value is rounded. -/
noncomputable def roundedQuanta (x : ℝ) : ℕ := nearestEven (x / 2 ^ quantumExp x)

theorem roundedQuanta_le {x : ℝ} (hx : 0 < x) : roundedQuanta x ≤ 0x1000000 := by
  obtain ⟨hlt, -⟩ := quanta_bounds hx
  have h := (nearestEven_nearest (t := x / 2 ^ quantumExp x) (by positivity) 0x1000000).1
  by_contra hgt
  have hge : (0x1000001 : ℝ) ≤ roundedQuanta x := by exact_mod_cast Nat.lt_of_not_le hgt
  unfold roundedQuanta at hge
  rw [abs_of_nonneg (by linarith), abs_of_nonneg (by push_cast; linarith)] at h
  push_cast at h
  linarith

theorem le_roundedQuanta {x : ℝ} (hx : 0 < x) : (quantumExp x + 149).toNat = 0 ∨ 0x800000 ≤ roundedQuanta x := by
  rcases (quanta_bounds hx).2 with h | hge
  · exact .inl (by simp [h])
  · right
    have h := (nearestEven_nearest (t := x / 2 ^ quantumExp x) (by positivity) 0x800000).1
    by_contra hlt
    have hle : (roundedQuanta x : ℝ) ≤ 0x7FFFFF := by exact_mod_cast Nat.le_of_lt_succ (Nat.lt_of_not_le hlt)
    unfold roundedQuanta at hle
    rw [abs_sub_comm, abs_of_nonneg (by linarith), abs_sub_comm, abs_of_nonneg (by push_cast; linarith)] at h
    push_cast at h
    linarith

/-! ### Rounding to the nearest magnitude -/

/-- The magnitude bits to which a positive real is rounded while the exponent is not bounded above. -/
noncomputable def unboundedMag (x : ℝ) : ℕ := (quantumExp x + 149).toNat * 0x800000 + roundedQuanta x

theorem roundedMag_eq (x : ℝ) : roundedMag x = min (unboundedMag x) 0x7F800000 := rfl

theorem magVal_unboundedMag {x : ℝ} (hx : 0 < x) :
    magVal (unboundedMag x) = roundedQuanta x * 2 ^ quantumExp x := by
  rw [magVal, unboundedMag, magUnits_quanta (le_roundedQuanta hx) (roundedQuanta_le hx), two_zpow_quantumExp]
  push_cast
  ring

/-- `|i·2^q − x|` in quanta. -/
theorem abs_quanta_sub (x y : ℝ) :
    |y * 2 ^ quantumExp x - x| = |y - x / 2 ^ quantumExp x| * 2 ^ quantumExp x := by
  have hpos : (0 : ℝ) < 2 ^ quantumExp x := by positivity
  rw [← abs_of_pos hpos, ← abs_mul, abs_of_pos hpos, sub_mul, div_mul_cancel₀ _ hpos.ne']

/-- The error of one rounding is at most half a quantum. -/
theorem abs_magVal_unboundedMag_sub_le {x : ℝ} (hx : 0 < x) :
    |magVal (unboundedMag x) - x| ≤ 2 ^ quantumExp x / 2 := by
  have hpos : (0 : ℝ) < 2 ^ quantumExp x := by positivity
  have h := (nearestEven_spec (t := x / 2 ^ quantumExp x) (by positivity)).1
  rw [magVal_unboundedMag hx, abs_quanta_sub, roundedQuanta]
  nlinarith

/-- A magnitude is a whole number of quanta of `x`, or lies below the binade of `x`. -/
theorem magVal_quanta_or_lt {x : ℝ} (hx : 0 < x) (k : ℕ) :
    (∃ i : ℕ, magVal k = i * 2 ^ quantumExp x) ∨
    magVal k < 2 ^ 23 * 2 ^ quantumExp x ∧ 2 ^ 23 * 2 ^ quantumExp x ≤ x := by
  have hpos : (0 : ℝ) < 2 ^ quantumExp x := by positivity
  rcases pow_dvd_magUnits_or_lt (quantumExp x + 149).toNat k with ⟨i, hi⟩ | hlt
  · left
    refine ⟨i, ?_⟩
    rw [magVal, hi, two_zpow_quantumExp]
    push_cast
    ring
  · rcases (quanta_bounds hx).2 with h | hge
    · left
      refine ⟨magUnits k, ?_⟩
      rw [magVal, h, div_eq_mul_inv]
      rfl
    · right
      refine ⟨?_, (le_div_iff₀ hpos).1 hge⟩
      have : (magUnits k : ℝ) < 0x800000 * 2 ^ (quantumExp x + 149).toNat := by exact_mod_cast hlt
      rw [magVal, two_zpow_quantumExp, ← mul_div_assoc]
      gcongr
      norm_num at this ⊢
      exact this

/-- No magnitude is nearer than the rounded one, whose last bit is 0 when another one is as near (00_scope.md R10). -/
theorem unboundedMag_nearest {x : ℝ} (hx : 0 < x) (k : ℕ) :
    |magVal (unboundedMag x) - x| ≤ |magVal k - x| ∧
    (|magVal k - x| = |magVal (unboundedMag x) - x| → k ≠ unboundedMag x → Even (unboundedMag x)) := by
  have hpos : (0 : ℝ) < 2 ^ quantumExp x := by positivity
  have hnear := nearestEven_nearest (t := x / 2 ^ quantumExp x) (by positivity)
  have hself := magVal_unboundedMag hx
  rcases magVal_quanta_or_lt hx k with ⟨i, hi⟩ | ⟨hlt, hle⟩
  · obtain ⟨hmin, htie⟩ := hnear i
    rw [hself, hi, abs_quanta_sub, abs_quanta_sub]
    refine ⟨mul_le_mul_of_nonneg_right hmin hpos.le, fun heq hne => ?_⟩
    have hik : i ≠ roundedQuanta x := by
      rintro rfl
      exact hne (magVal_strictMono.injective (hi.trans hself.symm))
    have heven : Even (roundedQuanta x) := htie (mul_right_cancel₀ hpos.ne' heq) hik
    exact (Even.mul_left (by decide) _).add heven
  · have hmin := (hnear (2 ^ 23)).1
    have hedge : |magVal (unboundedMag x) - x| ≤ |2 ^ 23 * 2 ^ quantumExp x - x| := by
      rw [hself, abs_quanta_sub, abs_quanta_sub]
      rw [Nat.cast_pow, Nat.cast_ofNat] at hmin
      exact mul_le_mul_of_nonneg_right hmin hpos.le
    have hfar : |2 ^ 23 * 2 ^ quantumExp x - x| < |magVal k - x| := by
      rw [abs_sub_comm, abs_of_nonneg (by linarith), abs_sub_comm, abs_of_nonneg (by linarith)]
      linarith
    exact ⟨(hedge.trans_lt hfar).le, fun heq => absurd heq (hedge.trans_lt hfar).ne'⟩

/-- The lower of two points is the nearer one up to the middle between them. -/
theorem near_left_iff {a b x : ℝ} (h : a < b) : |a - x| ≤ |b - x| ↔ 2 * x ≤ a + b := by
  rw [← sq_le_sq]
  constructor <;> intro hx <;> nlinarith

/-- The higher of two points is the nearer one from the middle between them on. -/
theorem near_right_iff {a b x : ℝ} (h : a < b) : |b - x| ≤ |a - x| ↔ a + b ≤ 2 * x := by
  rw [← sq_le_sq]
  constructor <;> intro hx <;> nlinarith

/-- A magnitude is rounded to itself. -/
theorem unboundedMag_magVal {k : ℕ} (hk : 0 < k) : unboundedMag (magVal k) = k := by
  have hpos : 0 < magVal k := magVal_zero ▸ magVal_strictMono hk
  have h := (unboundedMag_nearest hpos k).1
  rw [sub_self, abs_zero] at h
  exact magVal_strictMono.injective (sub_eq_zero.1 (abs_eq_zero.1 (le_antisymm h (abs_nonneg _))))

theorem unboundedMag_mono {x y : ℝ} (hx : 0 < x) (hxy : x ≤ y) : unboundedMag x ≤ unboundedMag y := by
  rcases hxy.eq_or_lt with rfl | hlt
  · exact le_refl _
  · by_contra hgt
    have hval := magVal_strictMono (Nat.lt_of_not_le hgt)
    have h1 := (near_right_iff hval).1 (unboundedMag_nearest hx _).1
    have h2 := (near_left_iff hval).1 (unboundedMag_nearest (hx.trans hlt) _).1
    linarith

end Sys2Proof.Ideal
end

section
/-! `rne32` of a real: signs, the overflow threshold, and the order of rounded values (00_scope.md R10). -/

namespace Sys2Proof.Machine

/-! ### Words from a sign and a magnitude -/

@[simp] theorem f32Mag_ofNat {m : Nat} (h : m < 0x80000000) : f32Mag (BitVec.ofNat 32 m) = m := by
  rw [f32Mag, BitVec.toNat_ofNat]; omega

@[simp] theorem f32Mag_ofNat_neg {m : Nat} (h : m < 0x80000000) :
    f32Mag (BitVec.ofNat 32 (0x80000000 + m)) = m := by
  rw [f32Mag, BitVec.toNat_ofNat]; omega

@[simp] theorem f32Neg_ofNat {m : Nat} (h : m < 0x80000000) : f32Neg (BitVec.ofNat 32 m) = false := by
  rw [f32Neg, BitVec.toNat_ofNat, decide_eq_false_iff_not]; omega

@[simp] theorem f32Neg_ofNat_neg {m : Nat} (h : m < 0x80000000) :
    f32Neg (BitVec.ofNat 32 (0x80000000 + m)) = true := by
  rw [f32Neg, BitVec.toNat_ofNat, decide_eq_true_eq]; omega

/-- A word is its sign and its magnitude (00_scope.md R9). -/
theorem ofNat_sign_mag (v : Word) :
    BitVec.ofNat 32 ((if f32Neg v = true then 0x80000000 else 0) + f32Mag v) = v := by
  apply BitVec.eq_of_toNat_eq
  have hv := v.isLt
  rw [BitVec.toNat_ofNat]
  simp only [f32Neg, f32Mag, decide_eq_true_eq]
  split <;> omega

theorem getLsbD_zero_eq_false_iff (v : Word) : v.getLsbD 0 = false ↔ Even (f32Mag v) := by
  rw [Nat.even_iff, f32Mag, BitVec.getLsbD, Nat.testBit_zero, decide_eq_false_iff_not]
  omega

end Sys2Proof.Machine

namespace Sys2Proof.Ideal
open Sys2Proof.Machine

/-! ### The overflow threshold -/

/-- The overflow threshold lies in the middle between the greatest finite magnitude and the next power of two. -/
theorem magVal_overflow_middle : magVal 0x7F7FFFFF + magVal 0x7F800000 = 2 * overflowBound := by
  rw [magVal, magVal, magUnits_normal (e := 253) (f := 0x7FFFFF) (by decide),
    magUnits_normal (e := 254) (f := 0) (by decide), overflowBound]
  norm_num

/-- A positive real is rounded to a finite magnitude exactly below the overflow threshold (00_scope.md R10). -/
theorem unboundedMag_lt_iff {x : ℝ} (hx : 0 < x) : unboundedMag x < 0x7F800000 ↔ x < overflowBound := by
  have hmid := magVal_overflow_middle
  constructor
  · intro hfin
    by_contra hge
    obtain ⟨hmin, htie⟩ := unboundedMag_nearest hx 0x7F800000
    have hle : magVal (unboundedMag x) ≤ magVal 0x7F7FFFFF := magVal_strictMono.monotone (by omega)
    have hx2 := (near_left_iff (magVal_strictMono hfin)).1 hmin
    have hmax : magVal (unboundedMag x) = magVal 0x7F7FFFFF := by linarith
    have hback := (near_right_iff (x := x) (magVal_strictMono hfin)).2 (by linarith)
    have heven := htie (le_antisymm hback hmin) hfin.ne'
    rw [magVal_strictMono.injective hmax] at heven
    exact absurd heven (by decide)
  · intro hlt
    by_contra hge
    have hinf : magVal 0x7F800000 ≤ magVal (unboundedMag x) := magVal_strictMono.monotone (by omega)
    have hgt : magVal 0x7F7FFFFF < magVal (unboundedMag x) := magVal_strictMono (by omega)
    have hx2 := (near_right_iff hgt).1 (unboundedMag_nearest hx 0x7F7FFFFF).1
    linarith

theorem roundedMag_le (x : ℝ) : roundedMag x ≤ 0x7F800000 := min_le_right _ _

theorem roundedMag_of_lt {x : ℝ} (hx : 0 < x) (h : x < overflowBound) : roundedMag x = unboundedMag x :=
  min_eq_left ((unboundedMag_lt_iff hx).2 h).le

theorem roundedMag_of_ge {x : ℝ} (h : overflowBound ≤ x) : roundedMag x = 0x7F800000 :=
  min_eq_right (not_lt.1 fun hlt => not_lt.2 h ((unboundedMag_lt_iff (overflowBound_pos.trans_le h)).1 hlt))

theorem roundedMag_mono {x y : ℝ} (hx : 0 < x) (hxy : x ≤ y) : roundedMag x ≤ roundedMag y :=
  min_le_min_right _ (unboundedMag_mono hx hxy)

/-! ### `rne32` of a real -/

@[simp] theorem rne32_zero : rne32 0 = 0 := if_pos rfl

theorem rne32_of_pos {r : ℝ} (h : 0 < r) : rne32 r = BitVec.ofNat 32 (roundedMag r) := by
  rw [rne32, if_neg h.ne', if_neg h.le.not_gt, abs_of_pos h, Nat.zero_add]

theorem rne32_of_neg {r : ℝ} (h : r < 0) : rne32 r = BitVec.ofNat 32 (0x80000000 + roundedMag |r|) := by
  rw [rne32, if_neg h.ne, if_pos h]

theorem f32Mag_rne32 {r : ℝ} (h : r ≠ 0) : f32Mag (rne32 r) = roundedMag |r| := by
  have hle := roundedMag_le |r|
  rcases h.lt_or_gt with hn | hp
  · rw [rne32_of_neg hn, f32Mag_ofNat_neg (by omega)]
  · rw [abs_of_pos hp] at hle ⊢
    rw [rne32_of_pos hp, f32Mag_ofNat (by omega)]

theorem f32Neg_rne32 {r : ℝ} : f32Neg (rne32 r) = true ↔ r < 0 := by
  rcases lt_trichotomy r 0 with h | rfl | h
  · have hle := roundedMag_le |r|
    simp only [rne32_of_neg h, f32Neg_ofNat_neg (show roundedMag |r| < 0x80000000 by omega), h]
  · simp [f32Neg]
  · have hle := roundedMag_le r
    simp [rne32_of_pos h, f32Neg_ofNat (show roundedMag r < 0x80000000 by omega), h.le]

/-- The value of a word by its sign and magnitude (00_scope.md R9). -/
theorem val_eq (v : Word) : val v = if f32Neg v = true then -magVal (f32Mag v) else magVal (f32Mag v) := by
  rw [val, valUnits, magVal]
  split
  · push_cast; ring
  · push_cast; rfl

theorem abs_val (v : Word) : |val v| = magVal (f32Mag v) := by
  rw [val_eq]
  split <;> simp [abs_of_nonneg (magVal_nonneg _)]

theorem isFinite_rne32 {r : ℝ} (h : |r| < overflowBound) : isFinite (rne32 r) = true := by
  rcases eq_or_ne r 0 with rfl | hr
  · rw [rne32_zero]; decide
  · have habs := abs_pos.2 hr
    rw [isFinite, f32Mag_rne32 hr, roundedMag_of_lt habs h, decide_eq_true_eq]
    exact (unboundedMag_lt_iff habs).2 h

/-- The distance of a real from its `rne32` is that of their magnitudes. -/
theorem abs_val_rne32_sub {r : ℝ} (hr : r ≠ 0) (h : |r| < overflowBound) :
    |val (rne32 r) - r| = abs (magVal (unboundedMag |r|) - |r|) := by
  rw [val_eq, f32Mag_rne32 hr, roundedMag_of_lt (abs_pos.2 hr) h]
  rcases hr.lt_or_gt with hn | hp
  · rw [if_pos (f32Neg_rne32.2 hn), abs_of_neg hn, ← abs_neg]
    congr 1; ring
  · rw [if_neg (by rw [f32Neg_rne32]; exact hp.le.not_gt), abs_of_pos hp]

/-- No finite value is nearer to a real than its `rne32` (00_scope.md R10). -/
theorem rne32_nearest {r : ℝ} (h : |r| < overflowBound) (w : Word) : |val (rne32 r) - r| ≤ |val w - r| := by
  rcases eq_or_ne r 0 with rfl | hr
  · rw [rne32_zero, val_zero]; simp
  · calc |val (rne32 r) - r| = abs (magVal (unboundedMag |r|) - |r|) := abs_val_rne32_sub hr h
      _ ≤ abs (magVal (f32Mag w) - |r|) := (unboundedMag_nearest (abs_pos.2 hr) _).1
      _ = abs (|val w| - |r|) := by rw [abs_val]
      _ ≤ |val w - r| := abs_abs_sub_abs_le _ _

/-- When another value is as near to a real as its `rne32`, the last bit of `rne32` is 0 (00_scope.md R10). -/
theorem rne32_tie_even {r : ℝ} (h : |r| < overflowBound) {w : Word}
    (htie : |val w - r| = |val (rne32 r) - r|) (hne : val w ≠ val (rne32 r)) : (rne32 r).getLsbD 0 = false := by
  rcases eq_or_ne r 0 with rfl | hr
  · rw [rne32_zero]; decide
  have habs := abs_pos.2 hr
  have hmag : f32Mag (rne32 r) = unboundedMag |r| := by rw [f32Mag_rne32 hr, roundedMag_of_lt habs h]
  obtain ⟨hmin, heven⟩ := unboundedMag_nearest habs (f32Mag w)
  have hrev : abs (magVal (f32Mag w) - |r|) ≤ |val w - r| := abs_val w ▸ abs_abs_sub_abs_le _ _
  rw [getLsbD_zero_eq_false_iff, hmag]
  rw [abs_val_rne32_sub hr h] at htie
  refine heven (le_antisymm (hrev.trans_eq htie) hmin) fun hsame => hne ?_
  -- Of two values of one magnitude, the one of the other sign is as near only if both are 0.
  have hw : |val w| = |val (rne32 r)| := by rw [abs_val, abs_val, hmag, hsame]
  rcases abs_eq_abs.1 hw with heq | hopp
  · exact heq
  · have hdist : |val (rne32 r) + r| = |val (rne32 r) - r| := by
      rw [abs_val_rne32_sub hr h, ← htie, hopp, ← abs_neg]
      congr 1; ring
    have hzero : val (rne32 r) = 0 := by
      rcases abs_eq_abs.1 hdist with h1 | h1
      · exact absurd (by linarith) hr
      · linarith
    rw [hopp, hzero, neg_zero]

theorem rne32_of_overflow {r : ℝ} (h : overflowBound ≤ r) : rne32 r = posInf ∧ rne32 (-r) = negInf := by
  have hpos := overflowBound_pos.trans_le h
  rw [rne32_of_pos hpos, rne32_of_neg (neg_lt_zero.2 hpos), abs_neg, abs_of_pos hpos, roundedMag_of_ge h]
  decide

/-- Every finite value but `-0` is its own `rne32`. -/
theorem rne32_val {v : Word} (hf : isFinite v = true) (hz : v ≠ 0x80000000) : rne32 (val v) = v := by
  rcases Nat.eq_zero_or_pos (f32Mag v) with h0 | hpos
  · have hv : v = 0 := by
      have hform := ofNat_sign_mag v
      rw [h0] at hform
      split at hform
      · exact absurd hform.symm hz
      · exact hform.symm
    rw [hv, val_zero, rne32_zero]
  · have hmag : 0 < magVal (f32Mag v) := magVal_zero ▸ magVal_strictMono hpos
    have hround : roundedMag (magVal (f32Mag v)) = f32Mag v := by
      rw [roundedMag_eq, unboundedMag_magVal hpos]
      exact min_eq_left (by simpa [isFinite] using hf : f32Mag v < _).le
    have hne : val v ≠ 0 := by rw [← abs_pos, abs_val]; exact hmag
    have hsign : val v < 0 ↔ f32Neg v = true := by
      rw [val_eq]
      split <;> simp [*, hmag.le]
    rw [rne32, if_neg hne, abs_val, hround]
    simp only [hsign]
    exact ofNat_sign_mag v

/-! ### The order of rounded values -/

theorem f32Key_rne32_of_nonneg {r : ℝ} (h : 0 ≤ r) : f32Key (rne32 r) = f32Mag (rne32 r) := by
  rw [f32Key, if_neg (by rw [f32Neg_rne32]; exact h.not_gt)]

theorem f32Key_rne32_of_neg {r : ℝ} (h : r < 0) : f32Key (rne32 r) = -(f32Mag (rne32 r) : ℤ) := by
  rw [f32Key, if_pos (f32Neg_rne32.2 h)]

/-- `rne32` keeps the order of the reals. -/
theorem f32Key_rne32_mono {r s : ℝ} (h : r ≤ s) : f32Key (rne32 r) ≤ f32Key (rne32 s) := by
  rcases lt_or_ge r 0 with hr | hr
  · rw [f32Key_rne32_of_neg hr]
    rcases lt_or_ge s 0 with hs | hs
    · rw [f32Key_rne32_of_neg hs, f32Mag_rne32 hr.ne, f32Mag_rne32 hs.ne]
      have := roundedMag_mono (abs_pos.2 hs.ne) (show |s| ≤ |r| by rw [abs_of_neg hs, abs_of_neg hr]; linarith)
      omega
    · rw [f32Key_rne32_of_nonneg hs]; omega
  · rw [f32Key_rne32_of_nonneg hr, f32Key_rne32_of_nonneg (hr.trans h)]
    rcases hr.eq_or_lt with rfl | hpos
    · rw [rne32_zero, show f32Mag 0 = 0 by decide]; omega
    · have := roundedMag_mono hpos h
      rw [f32Mag_rne32 hpos.ne', f32Mag_rne32 (hpos.trans_le h).ne', abs_of_pos hpos, abs_of_pos (hpos.trans_le h)]
      omega

end Sys2Proof.Ideal
end

section
/-! The machine's `rne32` of a ratio of integers is the one over the reals (00_scope.md R10). -/

namespace Sys2Proof.Ideal
open Sys2Proof.Machine

/-! ### The machine's `rne32` of a ratio -/

/-- An integer power of two as the ratio of the two shifts that the machine uses. -/
theorem two_zpow_eq_shifts (e : ℤ) : (2 : ℝ) ^ e = 2 ^ e.toNat / 2 ^ (-e).toNat := by
  rw [← zpow_natCast, ← zpow_natCast, ← zpow_sub₀ (by norm_num)]
  congr 1
  omega

theorem int_log_eq {r : ℝ} (hr : 0 < r) {e : ℤ} (hlo : (2 : ℝ) ^ e ≤ r) (hhi : r < 2 ^ (e + 1)) :
    Int.log 2 r = e :=
  le_antisymm (Int.lt_add_one_iff.1 ((Int.lt_zpow_iff_log_lt (by decide) hr).1 (by exact_mod_cast hhi)))
    ((Int.zpow_le_iff_le_log (by decide) hr).1 (by exact_mod_cast hlo))

theorem log2_bounds {n : ℕ} (hn : 0 < n) : (2 : ℝ) ^ n.log2 ≤ n ∧ (n : ℝ) < 2 ^ (n.log2 + 1) := by
  exact_mod_cast And.intro (Nat.log2_self_le hn.ne') Nat.lt_log2_self

/-- The exponent of a ratio that the machine finds is its binary logarithm. -/
theorem int_log_ratio {n d : ℕ} (hn : 0 < n) (hd : 0 < d) : Int.log 2 ((n : ℝ) / d) = ratioLog2 n d := by
  obtain ⟨hnlo, hnhi⟩ := log2_bounds hn
  obtain ⟨hdlo, hdhi⟩ := log2_bounds hd
  have hn0 : (0 : ℝ) < n := by exact_mod_cast hn
  have hd0 : (0 : ℝ) < d := by exact_mod_cast hd
  have hr : (0 : ℝ) < n / d := by positivity
  set e : ℤ := (n.log2 : ℤ) - d.log2 with he
  have htest : d * 2 ^ e.toNat ≤ n * 2 ^ (-e).toNat ↔ (2 : ℝ) ^ e ≤ n / d := by
    rw [two_zpow_eq_shifts, div_le_div_iff₀ (by positivity) hd0, mul_comm d]
    exact_mod_cast Iff.rfl
  have hhi : (n : ℝ) / d < 2 ^ (e + 1) := by
    rw [div_lt_iff₀ hd0]
    calc (n : ℝ) < 2 ^ (n.log2 + 1) := hnhi
      _ = 2 ^ (e + 1) * 2 ^ d.log2 := by
        rw [← zpow_natCast, ← zpow_natCast, ← zpow_add₀ (by norm_num)]; congr 1; push_cast; omega
      _ ≤ 2 ^ (e + 1) * d := by gcongr
  have hlo : (2 : ℝ) ^ (e - 1) ≤ n / d := by
    rw [le_div_iff₀ hd0]
    calc (2 : ℝ) ^ (e - 1) * d ≤ 2 ^ (e - 1) * 2 ^ (d.log2 + 1) := by gcongr
      _ = 2 ^ n.log2 := by
        rw [← zpow_natCast, ← zpow_natCast, ← zpow_add₀ (by norm_num)]; congr 1; push_cast; omega
      _ ≤ n := hnlo
  unfold ratioLog2
  simp only [← he]
  split
  · next h => exact int_log_eq hr (htest.1 h) hhi
  · next h => exact int_log_eq hr hlo (by rw [sub_add_cancel]; exact not_le.1 fun hle => h (htest.2 hle))

/-- The machine's rounding of a ratio to a whole number is the one over the reals. -/
theorem nearestEven_ratio (a : ℕ) {b : ℕ} (hb : 0 < b) : nearestEven ((a : ℝ) / b) = roundHalfEven a b := by
  have hb0 : (0 : ℝ) < b := by exact_mod_cast hb
  have hfloor : ⌊(a : ℝ) / b⌋₊ = a / b := Nat.floor_div_eq_div a b
  have hfrac : (a : ℝ) / b - (a / b : ℕ) = (a % b : ℕ) / b := by
    rw [div_sub' hb0.ne']
    congr 1
    rw [sub_eq_iff_eq_add']
    exact_mod_cast (Nat.div_add_mod a b).symm
  have hdown : ((a % b : ℕ) : ℝ) / b < 1 / 2 ↔ 2 * (a % b) < b := by
    rw [div_lt_div_iff₀ hb0 (by norm_num), one_mul, mul_comm]; exact_mod_cast Iff.rfl
  have hup : 1 / 2 < ((a % b : ℕ) : ℝ) / b ↔ b < 2 * (a % b) := by
    rw [div_lt_div_iff₀ (by norm_num) hb0, one_mul, mul_comm]; exact_mod_cast Iff.rfl
  simp only [nearestEven, roundHalfEven, hfloor, hfrac, hdown, hup]

theorem roundedMag_ratio {n d : ℕ} (hn : 0 < n) (hd : 0 < d) : roundedMag ((n : ℝ) / d) = roundMagBits n d := by
  have hq : quantumExp ((n : ℝ) / d) = max (ratioLog2 n d - 23) (-149) := by rw [quantumExp, int_log_ratio hn hd]
  have hscale : (n : ℝ) / d / 2 ^ quantumExp ((n : ℝ) / d) =
      ((n * 2 ^ (-quantumExp ((n : ℝ) / d)).toNat : ℕ) : ℝ) / (d * 2 ^ (quantumExp ((n : ℝ) / d)).toNat : ℕ) := by
    rw [two_zpow_eq_shifts]
    push_cast
    field_simp
  rw [roundedMag, roundMagBits, hscale, nearestEven_ratio _ (by positivity), hq]

/-- `rne32` of a ratio of integers, as the machine computes it, is the one over the reals (00_scope.md R10). -/
theorem machine_rne32_eq (num : ℤ) {den : ℕ} (hd : 0 < den) :
    Machine.rne32 num den = rne32 ((num : ℝ) / den) := by
  have hd0 : (0 : ℝ) < den := by exact_mod_cast hd
  rcases eq_or_ne num 0 with rfl | hne
  · simp [Machine.rne32]
  · have habs : |(num : ℝ) / den| = (num.natAbs : ℝ) / den := by
      rw [abs_div, abs_of_pos hd0, Nat.cast_natAbs, Int.cast_abs]
    have hsign : (num : ℝ) / den < 0 ↔ num < 0 := by rw [div_neg_iff]; simp [hd0, hd0.le.not_gt]
    have hzero : (num : ℝ) / den ≠ 0 := div_ne_zero (by exact_mod_cast hne) hd0.ne'
    rw [Machine.rne32, rne32, if_neg hne, if_neg hzero, habs, roundedMag_ratio (Int.natAbs_pos.2 hne) hd]
    simp only [hsign]

theorem val_eq_units (v : Word) : val v = (valUnits v : ℝ) / (unitsPerOne : ℕ) := by
  rw [val, unitsPerOne, Nat.cast_pow, Nat.cast_ofNat]

end Sys2Proof.Ideal

open Sys2Proof Sys2Proof.Machine

/-- Settles O51: the rounding over the reals is nearest-even, and the machine's agrees with it on ratios. -/
theorem roundingIsNearestEven : Obligations.RoundingIsNearestEven := by
  refine ⟨fun num _ hd => Ideal.machine_rne32_eq num hd, fun r hr => ⟨Ideal.isFinite_rne32 hr, fun w _ => ?_⟩,
    fun r hr => Ideal.rne32_of_overflow hr, Ideal.rne32_zero, fun v hf hz => ?_⟩
  · exact ⟨Ideal.rne32_nearest hr w, Ideal.rne32_tie_even hr⟩
  · rw [Ideal.machine_rne32_eq _ (by unfold unitsPerOne; positivity), ← Ideal.val_eq_units]
    exact Ideal.rne32_val hf hz
end

section
/-! The model's test for a pole or a zero on the unit circle is exact (42_magnitude_response.md R201, R202; log 8). -/

namespace Sys2Proof.Machine

/-! ### Real quadratics at a root of unity -/

theorem re_sq_add_im_sq {z : ℂ} (hz : ‖z‖ = 1) : z.re * z.re + z.im * z.im = 1 := by
  rw [← Complex.normSq_apply, Complex.normSq_eq_norm_sq, hz, one_pow]

/-- A point of the unit circle is a root of its own quadratic. -/
theorem sq_of_norm_one {z : ℂ} (hz : ‖z‖ = 1) : z ^ 2 = 2 * (z.re : ℂ) * z - 1 := by
  have hn := re_sq_add_im_sq hz
  apply Complex.ext <;> simp [pow_two] <;> linarith

/-- A real quadratic vanishes at a point of the unit circle off the real line only as a multiple of the point's own. -/
theorem quadratic_eq_zero_iff {z : ℂ} (hz : ‖z‖ = 1) (him : z.im ≠ 0) (a b c : ℝ) :
    (a : ℂ) + b * z + c * z ^ 2 = 0 ↔ a = c ∧ b = -(2 * z.re) * c := by
  have hlin : (a : ℂ) + b * z + c * z ^ 2 = ((a - c : ℝ) : ℂ) + ((b + 2 * z.re * c : ℝ) : ℂ) * z := by
    rw [sq_of_norm_one hz]; push_cast; ring
  rw [hlin]
  constructor
  · intro h
    have hb : b + 2 * z.re * c = 0 := by simpa [him] using congrArg Complex.im h
    have ha : a - c = 0 := by simpa [hb] using congrArg Complex.re h
    exact ⟨by linarith, by linarith⟩
  · rintro ⟨rfl, rfl⟩
    push_cast
    ring

section RootOfUnity

variable {q : ℕ} {z : ℂ} (h : IsPrimitiveRoot z q)
include h

theorem order_eq_iff_cyclotomic {n : ℕ} (hn : n ≠ 0) : q = n ↔ (Polynomial.cyclotomic n ℂ).eval z = 0 := by
  have : NeZero (n : ℂ) := ⟨Nat.cast_ne_zero.2 hn⟩
  rw [← Polynomial.IsRoot.def, Polynomial.isRoot_cyclotomic_iff]
  exact ⟨fun hq => hq ▸ h, h.unique⟩

/-- A root of unity on the real line is 1 or -1. -/
theorem im_ne_zero_of_order (hq : q ≠ 0) (h1 : q ≠ 1) (h2 : q ≠ 2) : z.im ≠ 0 := by
  intro him
  have hsq : z ^ 2 = 1 := by
    have hn := re_sq_add_im_sq (h.norm'_eq_one hq)
    rw [him] at hn
    apply Complex.ext <;> simp [pow_two, him]
    linarith
  have := Nat.le_of_dvd (by decide) (h.dvd_of_pow_eq_one 2 hsq)
  omega

/-- `z² + t·z + 1` vanishes at a root of unity off the real line exactly for `t = -2·Re z`. -/
theorem monic_quadratic_iff (hq : q ≠ 0) (him : z.im ≠ 0) (t : ℤ) :
    z ^ 2 + t * z + 1 = 0 ↔ 2 * z.re = -t := by
  have hquad := quadratic_eq_zero_iff (h.norm'_eq_one hq) him 1 t 1
  push_cast at hquad
  rw [show z ^ 2 + t * z + 1 = 1 + t * z + 1 * z ^ 2 by ring, hquad]
  constructor
  · rintro ⟨-, ht⟩; linarith
  · intro ht; exact ⟨rfl, by linarith⟩

theorem order_eq_three_iff (hq : q ≠ 0) (him : z.im ≠ 0) : q = 3 ↔ 2 * z.re = -1 := by
  rw [order_eq_iff_cyclotomic h (by decide), Polynomial.cyclotomic_three]
  simpa using monic_quadratic_iff h hq him 1

theorem order_eq_four_iff (hq : q ≠ 0) (him : z.im ≠ 0) : q = 4 ↔ 2 * z.re = 0 := by
  have hcyc : Polynomial.cyclotomic 4 ℂ = 1 + Polynomial.X ^ 2 := by
    rw [show 4 = 2 ^ (1 + 1) by rfl, Polynomial.cyclotomic_prime_pow_eq_geom_sum Nat.prime_two]
    simp [Finset.sum_range_succ]
  rw [order_eq_iff_cyclotomic h (by decide), hcyc]
  simpa [add_comm] using monic_quadratic_iff h hq him 0

theorem order_eq_six_iff (hq : q ≠ 0) (him : z.im ≠ 0) : q = 6 ↔ 2 * z.re = 1 := by
  rw [order_eq_iff_cyclotomic h (by decide), Polynomial.cyclotomic_six]
  simpa [sub_eq_add_neg] using monic_quadratic_iff h hq him (-1)

/-- Niven's theorem: twice the real part of a root of unity off the real line is -1, 0 or 1 when it is rational, being an
algebraic integer. -/
theorem two_re_of_rational (hq : q ≠ 0) (him : z.im ≠ 0) {r : ℚ} (hr : 2 * z.re = r) :
    2 * z.re = -1 ∨ 2 * z.re = 0 ∨ 2 * z.re = 1 := by
  have hsum : z + z⁻¹ = ((2 * z.re : ℝ) : ℂ) := by
    rw [Complex.inv_eq_conj (h.norm'_eq_one hq), Complex.add_conj]
  have hint : IsIntegral ℤ (((2 * z.re : ℝ) : ℂ)) :=
    hsum ▸ (h.isIntegral (by omega)).add (h.inv.isIntegral (by omega))
  obtain ⟨k, hk⟩ := hint.exists_int_iff_exists_rat.1 ⟨r, by rw [hr]; norm_cast⟩
  have hk' : 2 * z.re = k := by exact_mod_cast hk
  have hn := re_sq_add_im_sq (h.norm'_eq_one hq)
  have hlt : z.re * z.re < 1 := by nlinarith [mul_self_pos.2 him]
  have hlo : (-2 : ℝ) < k := by nlinarith
  have hhi : (k : ℝ) < 2 := by nlinarith
  have hlo' : -2 < k := by exact_mod_cast hlo
  have hhi' : k < 2 := by exact_mod_cast hhi
  obtain rfl | rfl | rfl : k = -1 ∨ k = 0 ∨ k = 1 := by omega
  · exact .inl (by simpa using hk')
  · exact .inr (.inl (by simpa using hk'))
  · exact .inr (.inr (by simpa using hk'))

/-- Off the real line, a quadratic with integer coefficients vanishes at a root of unity exactly in
the cases of the model's test (log 8). -/
theorem quadratic_eq_zero_iff_order (hq : q ≠ 0) (him : z.im ≠ 0) (a b c : ℤ) :
    (a : ℂ) + b * z + c * z ^ 2 = 0 ↔
      (a = 0 ∧ b = 0 ∧ c = 0) ∨ (q = 3 ∧ a = b ∧ b = c) ∨ (q = 4 ∧ b = 0 ∧ a = c) ∨ (q = 6 ∧ a = c ∧ b = -a) := by
  have hquad := quadratic_eq_zero_iff (h.norm'_eq_one hq) him a b c
  push_cast at hquad
  rw [hquad, order_eq_three_iff h hq him, order_eq_four_iff h hq him, order_eq_six_iff h hq him]
  constructor
  · rintro ⟨hac, hb⟩
    have hac' : a = c := by exact_mod_cast hac
    subst hac'
    rcases eq_or_ne a 0 with rfl | ha
    · exact .inl ⟨rfl, by simpa using hb, rfl⟩
    · have ha' : (a : ℝ) ≠ 0 := by exact_mod_cast ha
      have hrat : 2 * z.re = ((-(b : ℚ) / a : ℚ) : ℝ) := by
        push_cast
        rw [eq_div_iff ha', hb]
        ring
      right
      rcases two_re_of_rational h hq him hrat with hre | hre | hre <;> rw [hre] at hb ⊢
      · have hab : a = b := by exact_mod_cast (show (a : ℝ) = b by linarith)
        exact .inl ⟨rfl, hab, hab.symm⟩
      · exact .inr (.inl ⟨rfl, by exact_mod_cast (show (b : ℝ) = 0 by linarith), rfl⟩)
      · exact .inr (.inr ⟨rfl, rfl, by exact_mod_cast (show (b : ℝ) = -a by linarith)⟩)
  · rintro (⟨rfl, rfl, rfl⟩ | ⟨hre, rfl, rfl⟩ | ⟨hre, rfl, rfl⟩ | ⟨hre, rfl, rfl⟩)
    · simp
    · simp [hre]
    · simp [hre]
    · rw [hre]; simp

/-- The test by the order of a root of unity decides whether a quadratic with integer coefficients vanishes there. -/
theorem quadVanishes_iff (hq : q ≠ 0) (a b c : ℤ) :
    quadVanishes q a b c = true ↔ (a : ℂ) + b * z + c * z ^ 2 = 0 := by
  have htest : quadVanishes q a b c = true ↔
      (a = 0 ∧ b = 0 ∧ c = 0) ∨ (q = 1 ∧ a + b + c = 0) ∨ (q = 2 ∧ a - b + c = 0) ∨ (q = 3 ∧ a = b ∧ b = c) ∨
      (q = 4 ∧ b = 0 ∧ a = c) ∨ (q = 6 ∧ a = c ∧ b = -a) := by
    simp only [quadVanishes, Bool.or_eq_true, Bool.and_eq_true, beq_iff_eq, and_assoc, or_assoc]
  rw [htest]
  rcases eq_or_ne q 1 with rfl | h1
  · have hsum : (a : ℂ) + b * z + c * z ^ 2 = ((a + b + c : ℤ) : ℂ) := by
      rw [IsPrimitiveRoot.one_right_iff.1 h]; push_cast; ring
    rw [hsum, Int.cast_eq_zero]
    omega
  rcases eq_or_ne q 2 with rfl | h2
  · have hsum : (a : ℂ) + b * z + c * z ^ 2 = ((a - b + c : ℤ) : ℂ) := by
      rw [h.eq_neg_one_of_two_right]; push_cast; ring
    rw [hsum, Int.cast_eq_zero]
    omega
  · rw [quadratic_eq_zero_iff_order h hq (im_ne_zero_of_order h hq h1 h2)]
    simp [h1, h2]

end RootOfUnity

/-! ### The evaluation point -/

theorem circleOrder_ne_zero (f : Word) {fs : Word} (hfs : valUnits fs ≠ 0) : circleOrder f fs ≠ 0 := by
  unfold circleOrder
  have hpos := Int.natAbs_pos.2 hfs
  exact (Nat.div_pos (Nat.gcd_le_right _ hpos) (Nat.gcd_pos_of_pos_right _ hpos)).ne'

/-- The evaluation point is a root of unity of the order that the model computes (42_magnitude_response.md R200). -/
theorem evalPoint_isPrimitiveRoot (f : Word) {fs : Word} (hfs : valUnits fs ≠ 0) :
    IsPrimitiveRoot (Ideal.evalPoint f fs) (circleOrder f fs) := by
  set r : ℚ := Rat.divInt (valUnits f) (valUnits fs) with hr
  have hden : r.den = circleOrder f fs := by
    rw [hr, Rat.den_divInt, if_neg hfs, circleOrder, Int.gcd, Nat.gcd_comm]
  have hval : 2 * Real.pi * Ideal.val f / Ideal.val fs = 2 * Real.pi * (r : ℝ) := by
    have hfs' : (valUnits fs : ℝ) ≠ 0 := by exact_mod_cast hfs
    rw [hr, Rat.divInt_eq_div, Ideal.val, Ideal.val]
    push_cast
    field_simp
  rw [← hden, Ideal.evalPoint, hval]
  convert Complex.isPrimitiveRoot_exp_rat r using 2
  push_cast
  ring

/-- A quadratic in `z⁻¹` over the values of words is the one over their units, but for the common unit. -/
theorem val_quadratic (z : ℂ) (u v w : Word) :
    (Ideal.val u : ℂ) + Ideal.val v * z⁻¹ + Ideal.val w * (z⁻¹) ^ 2 =
      ((valUnits u : ℂ) + valUnits v * z⁻¹ + valUnits w * (z⁻¹) ^ 2) / 2 ^ 149 := by
  simp only [Ideal.val]
  push_cast
  ring

theorem val_one : Ideal.val 0x3F800000 = 1 := by
  rw [Ideal.val, show valUnits 0x3F800000 = 2 ^ 149 by decide]
  norm_num

/-- The model's test for a zero is exact (42_magnitude_response.md R201). -/
theorem sectionHasZero_iff (c : Coefs) (f : Word) {fs : Word} (hfs : valUnits fs ≠ 0) :
    sectionHasZero f fs c = true ↔ Ideal.numerator c (Ideal.evalPoint f fs) = 0 := by
  rw [sectionHasZero, quadVanishes_iff (evalPoint_isPrimitiveRoot f hfs).inv (circleOrder_ne_zero f hfs),
    Ideal.numerator, val_quadratic, div_eq_zero_iff, or_iff_left (pow_ne_zero _ two_ne_zero)]

/-- The model's test for a pole is exact (42_magnitude_response.md R201). -/
theorem sectionHasPole_iff (c : Coefs) (f : Word) {fs : Word} (hfs : valUnits fs ≠ 0) :
    sectionHasPole f fs c = true ↔ Ideal.denominator c (Ideal.evalPoint f fs) = 0 := by
  have hone : valUnits 0x3F800000 = (unitsPerOne : ℤ) := by decide
  have hcoef := val_quadratic (Ideal.evalPoint f fs) 0x3F800000 c.a1 c.a2
  rw [val_one, Complex.ofReal_one, hone] at hcoef
  rw [sectionHasPole, quadVanishes_iff (evalPoint_isPrimitiveRoot f hfs).inv (circleOrder_ne_zero f hfs),
    Ideal.denominator, hcoef, div_eq_zero_iff, or_iff_left (pow_ne_zero _ two_ne_zero)]

end Sys2Proof.Machine
end

section
/-! The machine's guards leave a configuration that meets R146 and R147 as it is on the operands of R145 (log 13). -/

namespace Sys2Proof.Ideal
open Sys2Proof.Machine

/-! ### One zero for both: the ideals see values only -/

theorem evalPoint_sameZero (f fs : Word) : evalPoint (sameZero f) fs = evalPoint f fs := by
  simp only [evalPoint, val_sameZero]

theorem numerator_sameZero (c : Coefs) (z : ℂ) : numerator (Coefs.sameZero c) z = numerator c z := by
  simp only [numerator, Coefs.sameZero, val_sameZero]

theorem denominator_sameZero (c : Coefs) (z : ℂ) : denominator (Coefs.sameZero c) z = denominator c z := by
  simp only [denominator, Coefs.sameZero, val_sameZero]

theorem cascadeMag_sameZero (secs : List Coefs) (f fs : Word) :
    cascadeMag (secs.map Coefs.sameZero) (sameZero f) fs = cascadeMag secs f fs := by
  have hsec : ∀ c : Coefs, sectionMag (Coefs.sameZero c) (evalPoint f fs) = sectionMag c (evalPoint f fs) := fun c => by
    rw [sectionMag, sectionMag, numerator_sameZero, denominator_sameZero]
  simp only [cascadeMag, evalPoint_sameZero, List.map_map, Function.comp_def, hsec]

theorem hasPole_sameZero (secs : List Coefs) (f fs : Word) :
    HasPole (secs.map Coefs.sameZero) (sameZero f) fs ↔ HasPole secs f fs := by
  simp [HasPole, evalPoint_sameZero, denominator_sameZero]

theorem LegalMag.sameZero {secs : List Coefs} {f fs : Word} (h : LegalMag secs f fs) :
    LegalMag (secs.map Coefs.sameZero) (Machine.sameZero f) fs := by
  obtain ⟨hne, hfin, hf, hfs⟩ := h
  refine ⟨by simpa using hne, fun d hd => ?_, by rwa [isFinite_sameZero], hfs⟩
  obtain ⟨c, hc, rfl⟩ := List.mem_map.1 hd
  simpa [FiniteSection, Coefs.sameZero] using hfin c hc

theorem val_getD_sameZero (x : List Word) (n : ℕ) : val ((x.map sameZero).getD n 0) = val (x.getD n 0) := by
  rw [← sameZero_zero, List.getD_map, val_sameZero, sameZero_zero]

theorem binIdeal_sameZero (x : List Word) (win k : ℕ) : binIdeal (x.map sameZero) win k = binIdeal x win k := by
  simp only [binIdeal, transform, List.length_map, val_getD_sameZero]

theorem windowedSum_sameZero (x : List Word) (win : ℕ) : windowedSum (x.map sameZero) win = windowedSum x win := by
  simp only [windowedSum, List.length_map, val_getD_sameZero]

theorem LegalBin.sameZero {x : List Word} {win k : ℕ} (h : LegalBin x win k) :
    LegalBin (x.map Machine.sameZero) win k := by
  obtain ⟨hfin, hlen, hwin, hk⟩ := h
  refine ⟨fun w hw => ?_, by simpa using hlen, hwin, by simpa using hk⟩
  obtain ⟨v, hv, rfl⟩ := List.mem_map.1 hw
  rw [isFinite_sameZero]
  exact hfin v hv

/-! ### Bins that the samples decide -/

theorem val_eq_zero_of_mag {v : Word} (h : f32Mag v = 0) : val v = 0 := by
  rw [val_eq, h, magVal_zero, neg_zero, ite_self]

/-- Hann is 0 at its two ends (43_spectral_analyzer.md R230). -/
theorem window_eq_zero {win len n : ℕ} (h : windowIsZeroAt win len n = true) : window win len n = 0 := by
  simp only [windowIsZeroAt, Bool.and_eq_true, Bool.or_eq_true, beq_iff_eq] at h
  obtain ⟨rfl, hend⟩ := h
  have hcos : Real.cos (2 * Real.pi * n / ((len : ℝ) - 1)) = 1 := by
    rcases hend with rfl | rfl
    · simp
    · push_cast
      rw [add_sub_cancel_right]
      rcases eq_or_ne n 0 with rfl | hn
      · simp
      · rw [mul_div_cancel_right₀ _ (by exact_mod_cast hn), Real.cos_two_pi]
  have hraw : rawWindow 1 len n = 0 := by
    simp only [rawWindow, hcos]
    norm_num
  rw [window, hraw, zero_mul, zero_div]

/-- A silent window has magnitude 0 in every bin (43_spectral_analyzer.md R231). -/
theorem binIdeal_of_silence {x : List Word} {win : ℕ} (h : windowedSilence x win = true) (k : ℕ) :
    binIdeal x win k = 0 := by
  simp only [windowedSilence, List.all_eq_true, List.mem_range, Bool.or_eq_true, beq_iff_eq] at h
  have hzero : transform x win k = 0 := by
    refine Finset.sum_eq_zero fun n hn => ?_
    rcases h n (Finset.mem_range.1 hn) with hw | hm
    · rw [window_eq_zero hw]; simp
    · rw [val_eq_zero_of_mag hm]; simp
  rw [binIdeal, hzero, norm_zero, zero_div]

theorem window_rectangular {len : ℕ} (hlen : 0 < len) (n : ℕ) : window 0 len n = 1 := by
  have : (len : ℝ) ≠ 0 := by exact_mod_cast hlen.ne'
  simp [window, rawWindow, this]

theorem sum_range_getD (x : List Word) (g : Word → ℝ) :
    ∑ n ∈ Finset.range x.length, g (x.getD n 0) = (x.map g).sum := by
  induction x with
  | nil => simp
  | cons v x ih =>
    rw [List.length_cons, Finset.sum_range_succ', List.map_cons, List.sum_cons, ← ih, add_comm]
    simp

theorem sum_map_val (x : List Word) : (x.map val).sum = ((x.map valUnits).sum : ℝ) / 2 ^ 149 := by
  induction x with
  | nil => simp
  | cons v x ih =>
    simp only [List.map_cons, List.sum_cons, ih, val]
    push_cast
    ring

/-- Bin 0 under the rectangular window is `|Σ x_n|·2/N` (43_spectral_analyzer.md R231). -/
theorem binIdeal_rectangular_zero {x : List Word} (hlen : 0 < x.length) :
    binIdeal x 0 0 = |((x.map valUnits).sum : ℝ)| / 2 ^ 149 / ((x.length : ℝ) / 2) := by
  have hsum : transform x 0 0 = (((x.map valUnits).sum / 2 ^ 149 : ℝ) : ℂ) := by
    rw [← sum_map_val, ← sum_range_getD x val, transform, Complex.ofReal_sum]
    refine Finset.sum_congr rfl fun n _ => ?_
    rw [window_rectangular hlen]
    simp
  rw [binIdeal, hsum, Complex.norm_real, Real.norm_eq_abs, abs_div, abs_of_pos (show (0 : ℝ) < 2 ^ 149 by positivity)]

theorem overflowBound_eq_units : overflowBound = (overflowUnits : ℝ) / 2 ^ 149 := by
  rw [overflowBound, overflowUnits]
  norm_num

/-- The model's test for an overflow of bin 0 is exact (43_spectral_analyzer.md R231). -/
theorem binZeroOverflows_iff {x : List Word} (hlen : 0 < x.length) :
    binZeroOverflows x 0 0 = true ↔ overflowBound ≤ binIdeal x 0 0 := by
  have hlen' : (0 : ℝ) < (x.length : ℝ) / 2 := by positivity
  rw [binIdeal_rectangular_zero hlen, overflowBound_eq_units, div_right_comm, div_le_div_iff_of_pos_right (by positivity),
    le_div_iff₀ hlen']
  have hcast : (overflowUnits : ℝ) * ((x.length : ℝ) / 2) ≤ |((x.map valUnits).sum : ℝ)| ↔
      overflowUnits * x.length ≤ 2 * ((x.map valUnits).sum).natAbs := by
    rw [← Nat.cast_le (α := ℝ), Nat.cast_mul, Nat.cast_mul, Nat.cast_natAbs, Int.cast_abs]
    constructor <;> intro h <;> push_cast at * <;> linarith
  rw [hcast, binZeroOverflows]
  simp

theorem overflow_of_binZeroOverflows {x : List Word} {win k : ℕ} (hlen : 0 < x.length)
    (h : binZeroOverflows x win k = true) : overflowBound ≤ binIdeal x win k := by
  have hzero : win = 0 ∧ k = 0 := by
    simp only [binZeroOverflows, Bool.and_eq_true, beq_iff_eq] at h
    exact h.1
  obtain ⟨rfl, rfl⟩ := hzero
  exact (binZeroOverflows_iff hlen).1 h

end Sys2Proof.Ideal

namespace Sys2Proof.Machine

/-! ### Positive words -/

theorem f32Key_of_toNat_le {v : Word} (h : v.toNat ≤ 0x7F800000) : f32Key v = v.toNat := by
  have hneg : f32Neg v = false := by simp [f32Neg]; omega
  simp only [f32Key, hneg, Bool.false_eq_true, if_false, f32Mag]
  omega

theorem f32Lt_zero_iff (v : Word) : f32Lt 0 v = true ↔ isNaN v = false ∧ 0 < f32Key v := by
  rw [f32Lt, show f32Key 0 = 0 by decide, show isNaN 0 = false by decide]
  simp

/-- A positive finite value's word lies between that of `+0` and that of `+Inf`. -/
theorem positive_iff (v : Word) :
    (isFinite v = true ∧ f32Lt 0 v = true) ↔ 0 < v.toNat ∧ v.toNat < 0x7F800000 := by
  have hv := v.isLt
  rw [f32Lt_zero_iff]
  by_cases hneg : f32Neg v = true
  · rw [f32Key, if_pos hneg]
    simp only [f32Neg, decide_eq_true_eq] at hneg
    omega
  · rw [f32Key, if_neg hneg]
    simp only [f32Neg, decide_eq_true_eq] at hneg
    have hmag : f32Mag v = v.toNat := by unfold f32Mag; omega
    simp only [isFinite, isNaN, hmag, decide_eq_true_eq, decide_eq_false_iff_not]
    omega

theorem eq_zero_or_posInf_or_positive {m : Word} (h : Ideal.LegalDb m) :
    m = 0 ∨ m = posInf ∨ (isFinite m = true ∧ f32Lt 0 m = true) := by
  unfold Ideal.LegalDb at h
  rw [positive_iff]
  rcases Nat.eq_zero_or_pos m.toNat with h0 | hpos
  · exact .inl (BitVec.eq_of_toNat_eq h0)
  · rcases h.eq_or_lt with hinf | hlt
    · exact .inr (.inl (BitVec.eq_of_toNat_eq hinf))
    · exact .inr (.inr ⟨hpos, hlt⟩)

theorem asFiniteCoefs_of_finite {c : Coefs} (h : Ideal.FiniteSection c) : Coefs.asFinite c = c := by
  obtain ⟨h0, h1, h2, h3, h4⟩ := h
  simp [Coefs.asFinite, h0, h1, h2, h3, h4]

end Sys2Proof.Machine

namespace Sys2Proof.Ideal
open Sys2Proof.Machine

/-! ### The configuration as applied -/

theorem LegalRate.units_ne_zero {fs : Word} (h : LegalRate fs) : valUnits fs ≠ 0 := by
  obtain ⟨-, hlo, -⟩ := h
  intro h0
  rw [val, h0, Int.cast_zero, zero_div] at hlo
  norm_num at hlo

theorem LegalMag.any_pole_iff {secs : List Coefs} {f fs : Word} (h : LegalMag secs f fs) :
    secs.any (sectionHasPole f fs) = true ↔ HasPole secs f fs := by
  obtain ⟨-, -, -, hfs⟩ := h
  simp only [List.any_eq_true, HasPole, sectionHasPole_iff _ _ hfs.units_ne_zero]

theorem LegalMag.cascade_of_zero {secs : List Coefs} {f fs : Word} (h : LegalMag secs f fs)
    (hz : secs.any (sectionHasZero f fs) = true) : cascadeMag secs f fs = 0 := by
  obtain ⟨-, -, -, hfs⟩ := h
  simp only [List.any_eq_true, sectionHasZero_iff _ _ hfs.units_ne_zero] at hz
  obtain ⟨c, hc, hnum⟩ := hz
  exact List.prod_eq_zero (List.mem_map.2 ⟨c, hc, by rw [sectionMag, hnum, norm_zero, zero_div]⟩)

/-- `+0` is within every bound within which some result for the ideal 0 is. -/
theorem MagWithin.zero_of_ideal_zero {bound m : ℝ} {w : Word} (h : MagWithin bound m w) (hm : m = 0) :
    MagWithin bound m 0 := by
  obtain ⟨-, hfin, -⟩ := h
  subst hm
  have hbound : 0 ≤ bound := (abs_nonneg _).trans (hfin overflowBound_pos).2
  exact ⟨by decide, fun _ => ⟨by decide, by rwa [val_zero, sub_zero, abs_zero]⟩,
    fun hover => absurd overflowBound_pos (not_lt.2 hover)⟩

section Applied

variable {nx : NxName} {e : Eps} (h : Meets (numericsOf nx) e)
include h

/-- On the operands of SWEEP the machine's column frequencies are the configuration's (log 10). -/
theorem Meets.nxColFreq_eq {fmin fmax : Word} {w : ℕ} (hcol : LegalColumn fmin fmax w) {x : ℕ} (hx : x < w) :
    nxColFreq nx fmin fmax x w = (numericsOf nx).colFreq fmin fmax x w := by
  induction x with
  | zero => exact (h.colFreqFirst fmin fmax w hcol).symm
  | succ y ih =>
    rw [nxColFreq]
    split
    · next heq => subst heq; exact (h.colFreqPoint fmin (y + 1) w hcol hx).symm
    · have bounds : ∀ z < w, 0 < ((numericsOf nx).colFreq fmin fmax z w).toNat ∧
          ((numericsOf nx).colFreq fmin fmax z w).toNat < 0x7F800000 := fun z hz => by
        obtain ⟨hf, hp, -⟩ := h.colFreq fmin fmax z w hcol hz
        exact (positive_iff _).1 ⟨hf, hp⟩
      have hmono := h.colFreqMono fmin fmax y (y + 1) w hcol (Nat.le_succ y) hx
      rw [f32Key_of_toNat_le (bounds y (by omega)).2.le, f32Key_of_toNat_le (bounds (y + 1) hx).2.le] at hmono
      rw [ih (by omega), asPositive_of_bounds (bounds (y + 1) hx), max_eq_right (by exact_mod_cast hmono),
        BitVec.ofNat_toNat, BitVec.setWidth_eq]

/-- On the magnitudes of R147 the machine's decibels are the configuration's. -/
theorem Meets.nxDb_eq {m : Word} (hm : LegalDb m) : nxDb nx m = (numericsOf nx).db m := by
  unfold nxDb
  split_ifs with h0 hinf hone
  · rw [h0, h.dbZero]
  · rw [hinf, h.dbInf]
  · rw [hone, h.dbOne]
  · obtain hz | hi | ⟨hf, hp⟩ := eq_zero_or_posInf_or_positive hm
    · exact absurd hz h0
    · exact absurd hi hinf
    · exact asFinite_of_finite (h.db m hf hp).1

/-- The machine's magnitude is within the configuration's bounds (40_command_execution.md R146). -/
theorem Meets.nxMag_within {secs : List Coefs} {f fs : Word} (hl : LegalMag secs f fs) (hpole : ¬HasPole secs f fs) :
    MagWithin (e.mag * cascadeMag secs f fs + e.magAbs) (cascadeMag secs f fs) (nxMag nx secs f fs) := by
  have hany : secs.any (sectionHasPole f fs) ≠ true := fun ha => hpole (hl.any_pole_iff.1 ha)
  have hcfg := h.mag _ _ fs hl.sameZero (by rwa [hasPole_sameZero])
  rw [cascadeMag_sameZero] at hcfg
  rw [nxMag, if_neg hany]
  split_ifs with hzero
  · exact hcfg.zero_of_ideal_zero (hl.cascade_of_zero hzero)
  · rwa [asMagnitude_of_le hcfg.1]

/-- The machine's magnitude is `+0` where the ideal is 0 (40_command_execution.md R146). -/
theorem Meets.nxMag_zero {secs : List Coefs} {f fs : Word} (hl : LegalMag secs f fs) (hpole : ¬HasPole secs f fs)
    (h0 : cascadeMag secs f fs = 0) : nxMag nx secs f fs = 0 := by
  have hany : secs.any (sectionHasPole f fs) ≠ true := fun ha => hpole (hl.any_pole_iff.1 ha)
  have hcfg := h.magZero _ _ fs hl.sameZero (by rwa [hasPole_sameZero]) (by rwa [cascadeMag_sameZero])
  rw [nxMag, if_neg hany, hcfg]
  split_ifs <;> decide

/-- The machine's bin magnitude is within the configuration's bound (40_command_execution.md R146). -/
theorem Meets.nxBinMag_within {x : List Word} {win k : ℕ} (hl : LegalBin x win k) :
    MagWithin (e.fft * (2 / x.length) * windowedSum x win) (binIdeal x win k) (nxBinMag nx x win k) := by
  have hcfg := h.binMag _ _ _ hl.sameZero
  rw [binIdeal_sameZero, windowedSum_sameZero, List.length_map] at hcfg
  unfold nxBinMag
  split_ifs with hsil hover
  · exact hcfg.zero_of_ideal_zero (binIdeal_of_silence hsil k)
  · have hlen : 0 < x.length := by
      obtain ⟨-, ⟨m, -, -, hm⟩, -, -⟩ := hl
      rw [hm]; positivity
    have hbound := overflow_of_binZeroOverflows hlen hover
    exact ⟨by decide, fun hlt => absurd hbound (not_le.2 hlt), fun _ => rfl⟩
  · rwa [asMagnitude_of_le hcfg.1]

/-- A configuration that meets R146 and R147 still does so as the machine applies it. -/
theorem Meets.asApplied : Meets (numericsAsApplied nx) e where
  hp fc fs o j hl := by
    show FiniteSection (nxHp nx fc fs o j) ∧ CoefsWithin e.coef (nxHp nx fc fs o j) _
    rw [nxHp, asFiniteCoefs_of_finite (h.hp fc fs o j hl).1]
    exact h.hp fc fs o j hl
  lp fc fs o j hl := by
    show FiniteSection (nxLp nx fc fs o j) ∧ CoefsWithin e.coef (nxLp nx fc fs o j) _
    rw [nxLp, asFiniteCoefs_of_finite (h.lp fc fs o j hl).1]
    exact h.lp fc fs o j hl
  pk fc g q fs hl := by
    have hl' : LegalPeak fc (sameZero g) q fs := by
      obtain ⟨hr, hf, ⟨hg, hgv⟩, hq⟩ := hl
      exact ⟨hr, hf, ⟨by rwa [isFinite_sameZero], by rwa [val_sameZero]⟩, hq⟩
    have hcfg := h.pk fc (sameZero g) q fs hl'
    rw [val_sameZero] at hcfg
    show FiniteSection (nxPk nx fc g q fs) ∧ CoefsWithin e.coef (nxPk nx fc g q fs) _
    rw [nxPk, asFiniteCoefs_of_finite hcfg.1]
    exact hcfg
  magPole secs f fs hl hpole := if_pos (hl.any_pole_iff.2 hpole)
  mag _ _ _ hl hpole := h.nxMag_within hl hpole
  magZero _ _ _ hl hpole h0 := h.nxMag_zero hl hpole h0
  colFreqFirst _ _ _ _ := rfl
  colFreqPoint fmin x w hcol hx := (h.nxColFreq_eq hcol hx).trans (h.colFreqPoint fmin x w hcol hx)
  colFreq fmin fmax x w hcol hx := by
    show isFinite (nxColFreq nx fmin fmax x w) = true ∧ f32Lt 0 (nxColFreq nx fmin fmax x w) = true ∧
      |val (nxColFreq nx fmin fmax x w) - _| ≤ _
    rw [h.nxColFreq_eq hcol hx]
    exact h.colFreq fmin fmax x w hcol hx
  colFreqMono fmin fmax x y w hcol hxy hy := by
    show f32Key (nxColFreq nx fmin fmax x w) ≤ f32Key (nxColFreq nx fmin fmax y w)
    rw [h.nxColFreq_eq hcol (by omega), h.nxColFreq_eq hcol hy]
    exact h.colFreqMono fmin fmax x y w hcol hxy hy
  binMag _ _ _ hl := h.nxBinMag_within hl
  dbZero := rfl
  dbInf := rfl
  dbOne := rfl
  db m hf hp := by
    have hl : LegalDb m := ((positive_iff m).1 ⟨hf, hp⟩).2.le
    show isFinite (nxDb nx m) = true ∧ |val (nxDb nx m) - _| ≤ _
    rw [h.nxDb_eq hl]
    exact h.db m hf hp
  dbMono m1 m2 h1 h2 hle := by
    show f32Key (nxDb nx m1) ≤ f32Key (nxDb nx m2)
    rw [h.nxDb_eq h1, h.nxDb_eq h2]
    exact h.dbMono m1 m2 h1 h2 hle

end Applied

end Sys2Proof.Ideal
end

section
/-! The reference configuration meets R146 and R147 with the bounds of the model (40_command_execution.md R145; log 12):
each result is one rounding of its ideal. -/

namespace Sys2Proof.Ideal
open Sys2Proof.Machine

/-! ### The error of one rounding -/

theorem abs_val_rne32_sub_le_quantum {r : ℝ} (hr : r ≠ 0) (h : |r| < overflowBound) :
    |val (rne32 r) - r| ≤ 2 ^ quantumExp |r| / 2 := by
  rw [abs_val_rne32_sub hr h]
  exact abs_magVal_unboundedMag_sub_le (abs_pos.2 hr)

/-- One rounding errs by at most `2^-24` of the value, and below the normal values by at most `2^-150`. -/
theorem abs_val_rne32_sub_le {r : ℝ} (h : |r| < overflowBound) :
    |val (rne32 r) - r| ≤ max (1 / 2 ^ 24 * |r|) (1 / 2 ^ 150) := by
  rcases eq_or_ne r 0 with rfl | hr
  · rw [rne32_zero, val_zero, sub_zero, abs_zero]
    positivity
  · refine (abs_val_rne32_sub_le_quantum hr h).trans ?_
    have habs := abs_pos.2 hr
    rcases (quanta_bounds habs).2 with hq | hq
    · rw [hq]
      refine le_max_of_le_right (le_of_eq ?_)
      norm_num
    · rw [le_div_iff₀ (by positivity)] at hq
      refine le_max_of_le_left ?_
      linarith

/-- The error of one rounding of a coefficient (40_command_execution.md R146). -/
theorem rne32_coef_within {r : ℝ} (h : |r| < overflowBound) :
    |val (rne32 r) - r| ≤ 1 / 2 ^ 24 * max 1 |r| := by
  refine (abs_val_rne32_sub_le h).trans (max_le ?_ ?_)
  · gcongr; exact le_max_right _ _
  · calc (1 : ℝ) / 2 ^ 150 ≤ 1 / 2 ^ 24 * 1 := by norm_num
      _ ≤ 1 / 2 ^ 24 * max 1 |r| := by gcongr; exact le_max_left _ _

/-- A magnitude rounded once is within its own bounds (40_command_execution.md R146). -/
theorem rne32_magWithin {bound m : ℝ} (hm : 0 ≤ m)
    (hbound : m < overflowBound → |val (rne32 m) - m| ≤ bound) : MagWithin bound m (rne32 m) := by
  refine ⟨?_, fun hlt => ⟨isFinite_rne32 (by rwa [abs_of_nonneg hm]), hbound hlt⟩, fun hge => (rne32_of_overflow hge).1⟩
  rcases hm.eq_or_lt with rfl | hpos
  · rw [rne32_zero]; decide
  · have hle := roundedMag_le m
    rw [rne32_of_pos hpos, BitVec.toNat_ofNat]
    omega

/-! ### The ideal coefficients are far below the overflow threshold -/

theorem lt_overflowBound {r : ℝ} (h : r ≤ 10 ^ 6) : r < overflowBound :=
  h.trans_lt (by unfold overflowBound; norm_num)

/-- Every coefficient is at most 16 in magnitude. -/
def RealCoefs.Small (c : RealCoefs) : Prop := |c.b0| ≤ 16 ∧ |c.b1| ≤ 16 ∧ |c.b2| ≤ 16 ∧ |c.a1| ≤ 16 ∧ |c.a2| ≤ 16

/-- Small coefficients, rounded once, are finite and within the bound of R146. -/
theorem RealCoefs.Small.rounded {c : RealCoefs} (h : c.Small) :
    FiniteSection (roundCoefs c) ∧ CoefsWithin (1 / 2 ^ 24) (roundCoefs c) c := by
  have lt : ∀ {r : ℝ}, |r| ≤ 16 → |r| < overflowBound := fun hr => lt_overflowBound (hr.trans (by norm_num))
  obtain ⟨h0, h1, h2, h3, h4⟩ := h
  exact ⟨⟨isFinite_rne32 (lt h0), isFinite_rne32 (lt h1), isFinite_rne32 (lt h2), isFinite_rne32 (lt h3),
      isFinite_rne32 (lt h4)⟩,
    rne32_coef_within (lt h0), rne32_coef_within (lt h1), rne32_coef_within (lt h2), rne32_coef_within (lt h3),
    rne32_coef_within (lt h4)⟩

/-- The section quality factors are positive (41_coefficient_design.md R175). -/
theorem butterworthQ_pos {o j : ℕ} (hj : j < o) : 0 < butterworthQ o j := by
  have ho : (0 : ℝ) < o := by exact_mod_cast (Nat.zero_le j).trans_lt hj
  have hjo : (j : ℝ) + 1 ≤ o := by exact_mod_cast hj
  have hcos : 0 < Real.cos ((2 * j + 1) * Real.pi / (4 * o)) := by
    refine Real.cos_pos_of_mem_Ioo ⟨?_, ?_⟩
    · have : (0 : ℝ) ≤ (2 * j + 1) * Real.pi / (4 * o) := by positivity
      linarith [Real.pi_pos]
    · rw [div_lt_div_iff₀ (by positivity) (by norm_num)]
      nlinarith [Real.pi_pos]
  rw [butterworthQ]
  positivity

/-- The normalising factor of a cut section, alone or times a coefficient's polynomial, is at most 1 in magnitude. -/
theorem cut_factor_bounds {n q : ℝ} (hn : 0 ≤ n) (hq : 0 < q) :
    |1 / (1 + n / q + n ^ 2)| ≤ 1 ∧ |1 / (1 + n / q + n ^ 2) * (n ^ 2 - 1)| ≤ 1 ∧
      |1 / (1 + n / q + n ^ 2) * (1 - n / q + n ^ 2)| ≤ 1 := by
  have hnq : 0 ≤ n / q := by positivity
  have hd : 0 < 1 + n / q + n ^ 2 := by positivity
  have scaled : ∀ y : ℝ, |y| ≤ 1 + n / q + n ^ 2 → |1 / (1 + n / q + n ^ 2) * y| ≤ 1 := fun y hy => by
    rw [abs_mul, abs_of_pos (by positivity), one_div, inv_mul_le_iff₀ hd, mul_one]
    exact hy
  refine ⟨by simpa using scaled 1 (by rw [abs_one]; nlinarith), scaled _ (abs_le.2 ⟨?_, ?_⟩),
    scaled _ (abs_le.2 ⟨?_, ?_⟩)⟩ <;> nlinarith

theorem abs_two_mul_le {y : ℝ} (h : |y| ≤ 1) : |2 * y| ≤ 16 := by
  rw [abs_mul, abs_two]; linarith

theorem hpIdeal_small {f fs q : ℝ} (hn : 0 ≤ Real.tan (Real.pi * f / fs)) (hq : 0 < q) : (hpIdeal f fs q).Small := by
  obtain ⟨hc, ha1, ha2⟩ := cut_factor_bounds hn hq
  refine ⟨hc.trans (by norm_num), ?_, hc.trans (by norm_num), ?_, ha2.trans (by norm_num)⟩
  · simpa [hpIdeal, abs_mul] using abs_two_mul_le hc
  · simpa only [hpIdeal, mul_assoc] using abs_two_mul_le ha1

theorem lpIdeal_small {f fs q : ℝ} (hn : 0 ≤ Real.tan (Real.pi * f / fs)) (hq : 0 < q) : (lpIdeal f fs q).Small := by
  obtain ⟨hc, ha1, ha2⟩ := cut_factor_bounds (one_div_nonneg.2 hn) hq
  refine ⟨hc.trans (by norm_num), abs_two_mul_le hc, hc.trans (by norm_num), ?_, ha2.trans (by norm_num)⟩
  have hneg : -(lpIdeal f fs q).a1 = 2 * (1 / (1 + 1 / Real.tan (Real.pi * f / fs) / q +
      (1 / Real.tan (Real.pi * f / fs)) ^ 2) * ((1 / Real.tan (Real.pi * f / fs)) ^ 2 - 1)) := by
    simp only [lpIdeal]; ring
  rw [← abs_neg, hneg]
  exact abs_two_mul_le ha1

/-- The amplitude factor of a legal gain is at most 4 (41_coefficient_design.md R178). -/
theorem amplitude_le {g : ℝ} (hg : g ≤ 24) : (10 : ℝ) ^ (g / 40) ≤ 4 := by
  calc (10 : ℝ) ^ (g / 40) ≤ 10 ^ ((3 : ℝ) / 5) := Real.rpow_le_rpow_of_exponent_le (by norm_num) (by linarith)
    _ = ((10 : ℝ) ^ (3 : ℕ)) ^ ((1 : ℝ) / 5) := by rw [← Real.rpow_natCast, ← Real.rpow_mul (by norm_num)]; norm_num
    _ ≤ ((4 : ℝ) ^ (5 : ℕ)) ^ ((1 : ℝ) / 5) := Real.rpow_le_rpow (by norm_num) (by norm_num) (by norm_num)
    _ = 4 := by rw [← Real.rpow_natCast, ← Real.rpow_mul (by norm_num)]; norm_num

theorem pkIdeal_small {f g q fs : ℝ} (hsin : 0 ≤ Real.sin (2 * Real.pi * f / fs)) (hg : g ≤ 24) (hq : 0 < q) :
    (pkIdeal f g q fs).Small := by
  have ha := amplitude_le hg
  have hcos := Real.neg_one_le_cos (2 * Real.pi * f / fs)
  have hcos' := Real.cos_le_one (2 * Real.pi * f / fs)
  unfold RealCoefs.Small pkIdeal
  simp only
  set a := (10 : ℝ) ^ (g / 40)
  set α := Real.sin (2 * Real.pi * f / fs) / (2 * q)
  have ha0 : 0 < a := Real.rpow_pos_of_pos (by norm_num) _
  have hα : 0 ≤ α := by positivity
  have hαa : 0 ≤ α / a := by positivity
  have hup : α * a ≤ 16 * (α / a) := by
    rw [mul_div_assoc', le_div_iff₀ ha0]
    nlinarith [mul_nonneg hα (show 0 ≤ 16 - a * a by nlinarith)]
  have hpos : 0 ≤ α * a := by positivity
  have scaled : ∀ y : ℝ, |y| ≤ 16 * (1 + α / a) → |y / (1 + α / a)| ≤ 16 := fun y hy => by
    rw [abs_div, abs_of_pos (show 0 < 1 + α / a by positivity), div_le_iff₀ (by positivity)]
    exact hy
  refine ⟨scaled _ (abs_le.2 ⟨?_, ?_⟩), scaled _ (abs_le.2 ⟨?_, ?_⟩), scaled _ (abs_le.2 ⟨?_, ?_⟩),
    scaled _ (abs_le.2 ⟨?_, ?_⟩), scaled _ (abs_le.2 ⟨?_, ?_⟩)⟩ <;> linarith

/-! ### The operands of a design -/

theorem LegalFreq.angle {fc fs : Word} (h : LegalFreq fc fs) :
    0 < Real.pi * val fc / val fs ∧ Real.pi * val fc / val fs < Real.pi / 2 := by
  obtain ⟨-, hlo, hhi⟩ := h
  have hfs : 0 < val fs := by linarith
  have hfc : 0 < val fc := by linarith
  refine ⟨by positivity, ?_⟩
  rw [div_lt_div_iff₀ hfs (by norm_num)]
  nlinarith [Real.pi_pos]

theorem LegalFreq.tan_nonneg {fc fs : Word} (h : LegalFreq fc fs) : 0 ≤ Real.tan (Real.pi * val fc / val fs) := by
  obtain ⟨hlo, hhi⟩ := h.angle
  exact (Real.tan_pos_of_pos_of_lt_pi_div_two hlo hhi).le

theorem LegalFreq.sin_nonneg {fc fs : Word} (h : LegalFreq fc fs) : 0 ≤ Real.sin (2 * Real.pi * val fc / val fs) := by
  obtain ⟨hlo, hhi⟩ := h.angle
  rw [mul_assoc, mul_div_assoc]
  exact (Real.sin_pos_of_pos_of_lt_pi (by linarith) (by linarith)).le

theorem LegalQ.pos {q : Word} (h : LegalQ q) : 0 < val q := by
  obtain ⟨-, hlo, -⟩ := h
  refine lt_of_lt_of_le ?_ hlo
  exact (val_bounds (m := 0x3DCCCCCD) (by decide) (by decide)).1.trans_lt' (by positivity)

/-! ### Column frequencies -/

theorem colIdeal_zero (fmin fmax : Word) (w : ℕ) : colIdeal fmin fmax 0 w = val fmin := by
  simp [colIdeal]

theorem colIdeal_point {fmin : Word} (h : LegalColumnFreq fmin) (x w : ℕ) : colIdeal fmin fmin x w = val fmin := by
  obtain ⟨-, hlo, -⟩ := h
  rw [colIdeal, div_self (by linarith), Real.one_rpow, mul_one]

theorem rne32_val_columnFreq {f : Word} (h : LegalColumnFreq f) : rne32 (val f) = f := by
  obtain ⟨hf, hlo, -⟩ := h
  refine rne32_val hf ?_
  rintro rfl
  rw [val, show valUnits 0x80000000 = 0 by decide] at hlo
  norm_num at hlo

theorem colIdeal_mono {fmin fmax : Word} {w : ℕ} (h : LegalColumn fmin fmax w) {x y : ℕ} (hxy : x ≤ y) :
    colIdeal fmin fmax x w ≤ colIdeal fmin fmax y w := by
  obtain ⟨⟨-, hlo, -⟩, -, hle, -⟩ := h
  have hpos : 0 < val fmin := by linarith
  have hexp : (x : ℝ) / w ≤ y / w := by gcongr
  exact mul_le_mul_of_nonneg_left (Real.rpow_le_rpow_of_exponent_le ((one_le_div hpos).2 hle) hexp) hpos.le

theorem colIdeal_bounds {fmin fmax : Word} {w : ℕ} (h : LegalColumn fmin fmax w) {x : ℕ} (hx : x < w) :
    1 ≤ colIdeal fmin fmax x w ∧ colIdeal fmin fmax x w ≤ 10 ^ 6 := by
  obtain ⟨⟨-, hlo, -⟩, ⟨-, -, hhi⟩, hle, hw⟩ := id h
  refine ⟨hlo.trans (le_colIdeal hlo hle x w), (colIdeal_mono h hx.le).trans ?_⟩
  have hw' : (w : ℝ) ≠ 0 := by exact_mod_cast (by omega : w ≠ 0)
  rw [colIdeal, div_self hw', Real.rpow_one, mul_div_cancel₀ _ (by linarith)]
  linarith

/-- A real from 1 on is rounded to a positive value. -/
theorem rne32_positive {r : ℝ} (h1 : 1 ≤ r) (h : r < overflowBound) :
    isFinite (rne32 r) = true ∧ f32Lt 0 (rne32 r) = true := by
  have hf : isFinite (rne32 r) = true := isFinite_rne32 (by rwa [abs_of_nonneg (by linarith)])
  have hone : rne32 1 = f32One := by
    have := rne32_val (v := f32One) (by decide) (by decide)
    rwa [f32One, val_one] at this
  have hkey := f32Key_rne32_mono h1
  rw [hone, show f32Key f32One = 0x3F800000 by decide] at hkey
  exact ⟨hf, (f32Lt_zero_iff _).2 ⟨isNaN_of_isFinite hf, by omega⟩⟩

/-! ### Decibels -/

/-- The decibels of a positive finite value are below 1024 in magnitude. -/
theorem decibels_lt {m : Word} (hf : isFinite m = true) (hp : f32Lt 0 m = true) : |decibels (val m)| < 2 ^ 10 := by
  obtain ⟨hlo, hhi⟩ := val_bounds hf hp
  have hpos : 0 < val m := lt_of_lt_of_le (by positivity) hlo
  have hten : (1 : ℝ) < 10 := by norm_num
  have hcube : Real.logb 10 (val m ^ 3) = 3 * Real.logb 10 (val m) := by rw [Real.logb_pow]; norm_num
  have hge : -(149 : ℕ) ≤ Real.logb 10 (val m ^ 3) := by
    rw [Real.le_logb_iff_rpow_le hten (by positivity), Real.rpow_neg (by norm_num), Real.rpow_natCast]
    calc ((10 : ℝ) ^ 149)⁻¹ ≤ (1 / 2 ^ 149) ^ 3 := by norm_num
      _ ≤ val m ^ 3 := by gcongr
  have hle : Real.logb 10 (val m ^ 3) ≤ (149 : ℕ) := by
    rw [Real.logb_le_iff_le_rpow hten (by positivity), Real.rpow_natCast]
    calc val m ^ 3 ≤ (2 ^ 128) ^ 3 := by gcongr
      _ ≤ 10 ^ 149 := by norm_num
  rw [decibels, abs_lt]
  push_cast at hge hle
  constructor <;> linarith

/-- The decibel bound of `NX_ref` covers half a quantum below 1024 (40_command_execution.md R147). -/
theorem half_quantum_le_refEps_db : (1 : ℝ) / 2 ^ 15 ≤ refEps.db := by
  have hmax : val 0x7F7FFFFF = (2 ^ 24 - 1) * 2 ^ 104 := by
    rw [val, show valUnits 0x7F7FFFFF = (2 ^ 24 - 1) * 2 ^ 253 by decide]
    norm_num
  have hlog : (26 : ℕ) ≤ Real.logb 10 (val 0x7F7FFFFF) := by
    rw [Real.le_logb_iff_rpow_le (by norm_num) (by rw [hmax]; norm_num), Real.rpow_natCast, hmax]
    norm_num
  rw [Nat.cast_ofNat] at hlog
  have : refEps.db = 1 / 2 ^ 24 * (20 * Real.logb 10 (val 0x7F7FFFFF)) := rfl
  rw [this]
  linarith

theorem rne32_decibels_within {d : ℝ} (h : |d| < 2 ^ 10) : |val (rne32 d) - d| ≤ refEps.db := by
  refine le_trans ?_ half_quantum_le_refEps_db
  rcases eq_or_ne d 0 with rfl | hd
  · rw [rne32_zero, val_zero, sub_zero, abs_zero]; norm_num
  · have hlog : Int.log 2 |d| < 10 := (Int.lt_zpow_iff_log_lt (by decide) (abs_pos.2 hd)).1 (by exact_mod_cast h)
    have hq : quantumExp |d| ≤ -14 := max_le (by omega) (by norm_num)
    calc |val (rne32 d) - d| ≤ 2 ^ quantumExp |d| / 2 :=
          abs_val_rne32_sub_le_quantum hd (lt_overflowBound (by linarith))
      _ ≤ 2 ^ (-14 : ℤ) / 2 := by gcongr; norm_num
      _ = 1 / 2 ^ 15 := by norm_num

theorem nxRef_db_zero : nxRef.db 0 = negInf := by simp [nxRef]

theorem nxRef_db_posInf : nxRef.db posInf = posInf := by simp [nxRef, posInf]

theorem nxRef_db_of_positive {m : Word} (hf : isFinite m = true) (hp : f32Lt 0 m = true) :
    nxRef.db m = rne32 (decibels (val m)) := by
  have h0 : m ≠ 0 := by rintro rfl; exact absurd hp (by decide)
  have hi : m ≠ posInf := by rintro rfl; exact absurd hf (by decide)
  simp only [nxRef, h0, hi, if_false]

theorem decibels_mono {m1 m2 : Word} (h1 : 0 < m1.toNat ∧ m1.toNat < 0x7F800000) (h2 : m2.toNat < 0x7F800000)
    (hle : m1.toNat ≤ m2.toNat) : decibels (val m1) ≤ decibels (val m2) := by
  have hval : ∀ {m : Word}, m.toNat < 0x7F800000 → val m = magVal m.toNat := fun {m} hm => by
    have hmag : f32Mag m = m.toNat := by unfold f32Mag; omega
    rw [val_eq, if_neg (by simp [f32Neg]; omega), hmag]
  have hpos : 0 < magVal m1.toNat := magVal_zero ▸ magVal_strictMono h1.1
  rw [decibels, decibels, hval h1.2, hval h2]
  gcongr
  · norm_num
  · exact magVal_strictMono.monotone hle

/-- The infinities are the ends of the order (00_scope.md R9). -/
theorem f32Key_between_infinities {v : Word} (h : isNaN v = false) :
    f32Key negInf ≤ f32Key v ∧ f32Key v ≤ f32Key posInf := by
  have hmag : f32Mag v ≤ 0x7F800000 := by simpa [isNaN] using h
  rw [show f32Key negInf = -0x7F800000 by decide, show f32Key posInf = 0x7F800000 by decide, f32Key]
  split <;> omega

theorem nxRef_db_not_nan {m : Word} (h : LegalDb m) : isNaN (nxRef.db m) = false := by
  rcases eq_zero_or_posInf_or_positive h with rfl | rfl | ⟨hf, hp⟩
  · rw [nxRef_db_zero]; decide
  · rw [nxRef_db_posInf]; decide
  · rw [nxRef_db_of_positive hf hp]
    exact isNaN_of_isFinite (isFinite_rne32 (lt_overflowBound ((decibels_lt hf hp).le.trans (by norm_num))))

theorem nxRef_dbMono {m1 m2 : Word} (h1 : LegalDb m1) (h2 : LegalDb m2) (hle : f32Key m1 ≤ f32Key m2) :
    f32Key (nxRef.db m1) ≤ f32Key (nxRef.db m2) := by
  rw [f32Key_of_toNat_le h1, f32Key_of_toNat_le h2, Nat.cast_le] at hle
  rcases eq_zero_or_posInf_or_positive h1 with rfl | rfl | ⟨hf1, hp1⟩
  · rw [nxRef_db_zero]; exact (f32Key_between_infinities (nxRef_db_not_nan h2)).1
  · have hm2 : m2 = posInf := BitVec.eq_of_toNat_eq (le_antisymm h2 hle)
    rw [hm2]
  · have hb1 := (positive_iff m1).1 ⟨hf1, hp1⟩
    rcases eq_zero_or_posInf_or_positive h2 with rfl | rfl | ⟨hf2, hp2⟩
    · exact absurd hb1.1 (by simpa using hle)
    · rw [nxRef_db_posInf]; exact (f32Key_between_infinities (nxRef_db_not_nan h1)).2
    · rw [nxRef_db_of_positive hf1 hp1, nxRef_db_of_positive hf2 hp2]
      exact f32Key_rne32_mono (decibels_mono hb1 ((positive_iff m2).1 ⟨hf2, hp2⟩).2 hle)

/-! ### The reference configuration -/

theorem refEps_nonNeg : refEps.NonNeg := by
  have hdb := half_quantum_le_refEps_db
  refine ⟨?_, ?_, ?_, ?_, le_trans (by norm_num) hdb, ?_⟩ <;> norm_num [refEps]

/-- `NX_ref` meets R146 and R147 with the bounds of the model (log 12). -/
theorem nxRef_meets : Meets nxRef refEps where
  hp fc fs o j h := by
    obtain ⟨-, hfc, -, -, hj⟩ := h
    exact (hpIdeal_small hfc.tan_nonneg (butterworthQ_pos hj)).rounded
  lp fc fs o j h := by
    obtain ⟨-, hfc, -, -, hj⟩ := h
    exact (lpIdeal_small hfc.tan_nonneg (butterworthQ_pos hj)).rounded
  pk fc g q fs h := by
    obtain ⟨-, hfc, ⟨-, hg⟩, hq⟩ := h
    exact (pkIdeal_small hfc.sin_nonneg (abs_le.1 hg).2 hq.pos).rounded
  magPole secs f fs _ hpole := if_pos hpole
  mag secs f fs _ hpole := by
    have hm := cascadeMag_nonneg secs f fs
    rw [show nxRef.mag secs f fs = rne32 (cascadeMag secs f fs) from if_neg hpole]
    refine rne32_magWithin hm fun hlt => ?_
    have herr := abs_val_rne32_sub_le (r := cascadeMag secs f fs) (by rwa [abs_of_nonneg hm])
    rw [abs_of_nonneg hm] at herr
    exact herr.trans (max_le_add_of_nonneg (by positivity) (by positivity))
  magZero secs f fs _ hpole h0 := by
    rw [show nxRef.mag secs f fs = rne32 (cascadeMag secs f fs) from if_neg hpole, h0, rne32_zero]
  colFreqFirst fmin fmax w h := by
    show rne32 (colIdeal fmin fmax 0 w) = fmin
    rw [colIdeal_zero, rne32_val_columnFreq h.1]
  colFreqPoint fmin x w h _ := by
    show rne32 (colIdeal fmin fmin x w) = fmin
    rw [colIdeal_point h.1, rne32_val_columnFreq h.1]
  colFreq fmin fmax x w h hx := by
    obtain ⟨hlo, hhi⟩ := colIdeal_bounds h hx
    obtain ⟨hf, hp⟩ := rne32_positive hlo (lt_overflowBound hhi)
    have habs : |colIdeal fmin fmax x w| = colIdeal fmin fmax x w := abs_of_nonneg (by linarith)
    have herr := abs_val_rne32_sub_le (r := colIdeal fmin fmax x w) (by rw [habs]; exact lt_overflowBound hhi)
    rw [habs, max_eq_left (by norm_num; linarith)] at herr
    exact ⟨hf, hp, herr⟩
  colFreqMono _ _ _ _ _ h hxy _ := f32Key_rne32_mono (colIdeal_mono h hxy)
  binMag x win k _ := by
    have hm := binIdeal_nonneg x win k
    refine rne32_magWithin hm fun hlt => ?_
    calc |val (rne32 (binIdeal x win k)) - binIdeal x win k|
        ≤ |val 0 - binIdeal x win k| := rne32_nearest (by rwa [abs_of_nonneg hm]) 0
      _ = binIdeal x win k := by rw [val_zero, zero_sub, abs_neg, abs_of_nonneg hm]
      _ ≤ refEps.fft * (2 / x.length) * windowedSum x win := by
        rw [show refEps.fft = 1 from rfl, one_mul]; exact binIdeal_le x win k
  dbZero := nxRef_db_zero
  dbInf := nxRef_db_posInf
  dbOne := by
    rw [nxRef_db_of_positive (by decide) (by decide), f32One, val_one, decibels, Real.logb_one, mul_zero, rne32_zero]
  db m hf hp := by
    have hd := decibels_lt hf hp
    rw [nxRef_db_of_positive hf hp]
    exact ⟨isFinite_rne32 (lt_overflowBound (hd.le.trans (by norm_num))), rne32_decibels_within hd⟩
  dbMono _ _ h1 h2 hle := nxRef_dbMono h1 h2 hle

/-- Every configuration meets R146 and R147 with the bounds of its name. -/
theorem numericsOf_meets (nx : NxName) : Eps.NonNeg (NxName.eps nx) ∧ Meets (numericsOf nx) (NxName.eps nx) := by
  cases nx with
  | reference => exact ⟨refEps_nonNeg, numericsOf_reference ▸ nxRef_meets⟩
  | other id => exact Classical.choose_spec (numericsOf_other id)

end Sys2Proof.Ideal

open Sys2Proof Sys2Proof.Machine

/-- Settles O56: the configuration meets its bounds, and the machine's guards leave it as it is on legal operands. -/
theorem numericsMeetTheirBounds : Obligations.NumericsMeetTheirBounds := by
  intro nx
  obtain ⟨hnonneg, hmeets⟩ := Ideal.numericsOf_meets nx
  exact ⟨hnonneg, hmeets.asApplied⟩
end

section
/-! The registers' legal words: what masks, section bits and legalised writes keep (10_state.md R37 to R50). -/

namespace Sys2Proof.Machine

/-! ### Words within a mask -/

theorem or_within {k a b : Word} (ha : a &&& k = a) (hb : b &&& k = b) : (a ||| b) &&& k = a ||| b := by
  rw [BitVec.and_or_distrib_right, ha, hb]

theorem and_within {k a : Word} (ha : a &&& k = a) (b : Word) : (a &&& b) &&& k = a &&& b := by
  rw [BitVec.and_assoc, BitVec.and_comm b k, ← BitVec.and_assoc, ha]

theorem flagMask_within (f : Flag) : flagMask f &&& statusMask = flagMask f := by cases f <;> decide

/-- Section bits of a four-bit place inside the defined bits of BYPASS leave the undefined bits 0 (10_state.md R50). -/
theorem setSectionBits_within {bypass : Word} (h : bypass &&& bypassMask = bypass) {lo : Nat}
    (hlo : 0xF#32 <<< lo &&& bypassMask = 0xF#32 <<< lo) (o : Nat) :
    setSectionBits bypass lo o &&& bypassMask = setSectionBits bypass lo o := by
  refine or_within (and_within h _) ?_
  rw [BitVec.shiftLeft_and_distrib, BitVec.and_assoc, hlo]

/-! ### Legalised writes -/

/-- A CTRL write keeps the reserved bits 0 and never brings WIN to 3 (10_state.md R37, R38). -/
theorem ctrlWrite_legal {old : Word} (h : old &&& 6 ≠ 6) (v : Word) :
    ctrlWrite old v &&& 7 = ctrlWrite old v ∧ ctrlWrite old v &&& 6 ≠ 6 := by
  unfold ctrlWrite
  split
  · simpa [BitVec.and_or_distrib_right, BitVec.and_assoc] using h
  · next hv => simpa [BitVec.and_assoc] using hv

theorem legal_bounds {b : Build} (h : Build.legal b = true) :
    (3 ≤ b.k ∧ b.k ≤ 15) ∧ (1 ≤ b.fqCap ∧ b.fqCap ≤ 15) ∧ b.j ≤ 15 ∧ b.srbBase % windowSize = 0 := by
  simpa [Build.legal, and_assoc] using h

theorem wmax_le {b : Build} (h : b.j ≤ 15) : Build.wmax b ≤ 2 ^ 15 := Nat.pow_le_pow_right (by decide) h

/-- A WIDTH write stores the smaller of the word and `WMAX` (10_state.md R49). -/
theorem widthWrite_toNat {b : Build} (h : b.j ≤ 15) (v : Word) :
    (widthWrite b v).toNat = min v.toNat (Build.wmax b) := by
  have hmax := wmax_le h
  rw [widthWrite, BitVec.toNat_ofNat, Nat.mod_eq_of_lt (by omega)]

theorem code_le (e : ErrCode) : e.code.toNat ≤ 7 := by cases e <;> decide

end Sys2Proof.Machine
end

section
/-! The invariant: at reset, and under every update of the state, every host access and every command. -/

namespace Sys2Proof.Machine

/-! ### Channels -/

theorem chanOk_empty (b : Build) (fresh : Bool) (drop : BitVec 16) :
    ChanOk b { fq := [], fresh := fresh, drop := drop } := ⟨Nat.zero_le _, by simp⟩

theorem ChanOk.withFresh {b : Build} {x : Chan} (h : ChanOk b x) (fresh : Bool) :
    ChanOk b { x with fresh := fresh } := h

/-! ### The reset state -/

/-- The reset state of a legal build satisfies the invariant (70_reset_and_hazards.md R301). -/
theorem inv_resetOf {b : Build} (h : Build.legal b = true) : Inv (State.resetOf b) where
  build := h
  ctrl := by simp [State.resetOf]
  status := by simp [State.resetOf]
  errcode := Nat.zero_le _
  sampleRate := (⟨by decide, by decide, by decide⟩ : InRange 0x472C4400 sampleRateLow sampleRateHigh)
  floorDb := (⟨by decide, by decide, by decide⟩ : InRange 0xC2400000 floorLow floorHigh)
  respFloorDb := (⟨by decide, by decide, by decide⟩ : InRange 0xC2C80000 floorLow floorHigh)
  fmin := (⟨by decide, by decide, by decide⟩ : InRange 0x41A00000 sweepFreqLow sweepFreqHigh)
  fmax := (⟨by decide, by decide, by decide⟩ : InRange 0x469C4000 sweepFreqLow sweepFreqHigh)
  width := Nat.zero_le _
  bypass := by simp [State.resetOf, bypassMask]
  coef i := by simpa [State.resetOf] using identity_finite
  ch0 := chanOk_empty b false 0
  ch1 := chanOk_empty b false 0
  mem := ⟨⟨List.Pairwise.nil, nofun⟩, nofun⟩

/-! ### Updates -/

section
variable {s : State} (h : Inv s)
include h

theorem Inv.chan (c : Channel) : ChanOk s.build (State.chan s c) := by
  cases c
  · exact h.ch0
  · exact h.ch1

theorem Inv.setHost (p : HostPort) : Inv (State.setHost s p) := inv_withHost h p

theorem Inv.setResult (w : Word) : Inv (State.setResult s w) := { h with }

theorem Inv.setStatus {w : Word} (hw : w &&& statusMask = w) : Inv (State.setStatus s w) := { h with status := hw }

theorem Inv.setErrcode (e : ErrCode) : Inv (State.setErrcode s e.code) := { h with errcode := code_le e }

theorem Inv.setCoef {coef : Vector Coefs 9} (hc : ∀ i : Fin 9, Coefs.Finite coef[i]) : Inv (State.setCoef s coef) :=
  { h with coef := hc }

theorem Inv.setBypass {w : Word} (hw : w &&& bypassMask = w) : Inv (State.setBypass s w) := { h with bypass := hw }

theorem Inv.setMem {m : Memory} (hm : MemOk s.build m) : Inv (State.setMem s m) := { h with mem := hm }

theorem Inv.setChan (c : Channel) {x : Chan} (hx : ChanOk s.build x) : Inv (State.setChan s c x) := by
  cases c
  · exact { h with ch0 := hx }
  · exact { h with ch1 := hx }

theorem Inv.writeBuf {b : Buf} {ws : List Word} (hl : ws.length ≤ bufLen s.build b) : Inv (State.writeBuf s b ws) :=
  h.setMem (memOk_writeBuf h.mem hl)

theorem Inv.setFlag (f : Flag) : Inv (State.setFlag s f) := h.setStatus (or_within h.status (flagMask_within f))

theorem Inv.reject (e : ErrCode) : Inv (State.reject s e) := (h.setFlag .err).setErrcode e

theorem Inv.recordClamp (e : ErrCode) : Inv (State.recordClamp s e) := (h.setFlag .clamped).setErrcode e

theorem Inv.recordBusError : Inv (State.recordBusError s) := (h.setFlag .busErr).setErrcode .busError

theorem Inv.noteNonFinite (met : Bool) : Inv (State.noteNonFinite s met) := by
  cases met
  · exact h
  · exact h.setFlag .nonfinite

theorem Inv.resetBlock : Inv (State.resetBlock s) := (inv_resetOf h.build).setHost _

/-- A frame added to the queue: a full queue makes room first, so its length stays within `FQ_CAP` (43_spectral_analyzer.md
R233). -/
theorem Inv.enqueue (c : Channel) {f : Frame} (hf : FrameOk s.build f) : Inv (enqueue s c f) := by
  obtain ⟨-, ⟨hcap, -⟩, -, -⟩ := legal_bounds h.build
  obtain ⟨hlen, hall⟩ := h.chan c
  rcases enqueue_cases s c f with ⟨hfull, heq⟩ | ⟨hroom, heq⟩ <;> rw [heq]
  · refine (h.setChan c ⟨by simp; omega, fun g hg => ?_⟩).setFlag _
    rcases List.mem_append.1 hg with hg | hg
    · exact hall g (List.mem_of_mem_drop hg)
    · rwa [List.mem_singleton.1 hg]
  · refine h.setChan c ⟨by simp; omega, fun g hg => ?_⟩
    rcases List.mem_append.1 hg with hg | hg
    · exact hall g hg
    · rwa [List.mem_singleton.1 hg]

/-! ### Commands -/

theorem Inv.designCut {base lo : Nat} (hlo : 0xF#32 <<< lo &&& bypassMask = 0xF#32 <<< lo) (o : Nat) {f : Nat → Coefs}
    (hf : ∀ j, Coefs.Finite (f j)) : Inv (designCut s base lo o f) :=
  ((h.setCoef (writeSections_finite h.coef hf)).setBypass (setSectionBits_within h.bypass hlo o)).setResult 0

theorem Inv.sweepColumns (hi : Word) : Inv (sweepColumns s hi) := by
  have hlen : ((columnMags s hi).map (columnDb s)).length ≤ bufLen s.build .resp := by
    simpa [columnMags] using h.width
  exact ((h.writeBuf hlen).noteNonFinite _).setResult _

theorem Inv.ingestBlock (c : Channel) (l : Nat) : Inv (ingestBlock s c l) := by
  unfold Machine.ingestBlock
  split
  · exact h.setResult 0
  · have hlen : (shiftIn (readBuf s (.rw c)) ((readBuf s (.sb c)).take l)).length ≤ bufLen s.build (.rw c) := by
      rw [shiftIn_length, readBuf_length]
    exact ((h.writeBuf hlen).setChan c ((h.chan c).withFresh true)).setResult _

theorem Inv.clearFresh (c : Channel) : Inv (clearFresh s c) :=
  h.setChan c ((h.chan c).withFresh false)

theorem Inv.produceFrame (c : Channel) : Inv (produceFrame s c) := by
  unfold Machine.produceFrame
  split
  · have hframe : FrameOk s.build (frameOf s c).1 := frameOf_ok s c h.floorDb.1
    exact (((h.noteNonFinite _).enqueue c (by simpa using hframe)).clearFresh c).setResult 1
  · exact h.setResult 0

theorem Inv.popFrame (c : Channel) : Inv (popFrame s c) := by
  unfold Machine.popFrame
  split
  · exact h.setResult 0
  · next f rest hfq =>
    obtain ⟨hlen, hall⟩ := h.chan c
    rw [hfq] at hlen hall
    have hfits : f.length ≤ bufLen s.build (.fout c) := (hall f (List.mem_cons_self ..)).1.le
    exact ((h.writeBuf hfits).setChan c
      ⟨(Nat.le_succ _).trans hlen, fun g hg => hall g (List.mem_cons_of_mem f hg)⟩).setResult 1

theorem Inv.clearChannel (c : Channel) : Inv (clearChannel s c) :=
  ((h.writeBuf (by simp)).setChan c (chanOk_empty _ _ _)).setResult 0

end

/-- What a class-(d) check, a clamp and a rejection keep, the checked command keeps (40_command_execution.md R143). -/
theorem classD_keeps {P : State → Prop} {α : Type} {s : State} {ok : Bool} {e : ErrCode} {x y : α}
    {go : α → State → State} (hs : P s) (hreject : P (State.reject s e)) (hclamp : P (State.recordClamp s e))
    (hgo : ∀ z t, P t → P (go z t)) : P (classD s ok e x y go) := by
  rcases classD_cases s ok e x y go with ⟨-, h⟩ | ⟨-, -, h⟩ | ⟨-, -, h⟩ <;> rw [h]
  · exact hgo x s hs
  · exact hreject
  · exact hgo y _ hclamp

theorem withChannel_keeps {P : State → Prop} {s : State} {ch : Nat} {go : Channel → State}
    (hreject : P (State.reject s .badChannel)) (hgo : ∀ c, P (go c)) : P (withChannel s ch go) := by
  rcases withChannel_cases s ch go with ⟨c, -, h⟩ | ⟨-, h⟩ <;> rw [h]
  · exact hgo c
  · exact hreject

theorem Inv.classD {α : Type} {s : State} (h : Inv s) {ok : Bool} {e : ErrCode} {x y : α} {go : α → State → State}
    (hgo : ∀ z t, Inv t → Inv (go z t)) : Inv (classD s ok e x y go) :=
  classD_keeps h (h.reject e) (h.recordClamp e) hgo

/-- Every command keeps the invariant. -/
theorem Inv.exec {s t : State} (h : Inv s) {i : Instr} (ht : exec i s = .next t) : Inv t := by
  cases i with
  | nop => cases ht; exact h.setResult 0
  | reset => cases ht; exact h.resetBlock
  | chainReset =>
    cases ht
    exact ((h.setCoef fun i => by simpa using identity_finite).setBypass (by decide)).setResult 0
  | designLowcut imm =>
    cases ht
    exact h.classD fun o u hu => hu.designCut (by decide) o fun j => nxHp_finite _ _ _ _ _
  | designPeak =>
    cases ht
    exact ((h.setCoef (writeSections_finite h.coef fun _ => nxPk_finite _ _ _ _ _)).setBypass
      (and_within h.bypass _)).setResult 0
  | designHighcut imm =>
    cases ht
    exact h.classD fun o u hu => hu.designCut (by decide) o fun j => nxLp_finite _ _ _ _ _
  | magAt =>
    cases ht
    split
    · exact (h.noteNonFinite _).setResult _
    · exact (h.noteNonFinite _).setResult _
  | sweep => cases ht; exact h.classD fun hi u hu => hu.sweepColumns hi
  | ingest ch imm =>
    cases ht
    exact withChannel_keeps (h.reject _) fun c => h.classD fun l u hu => hu.ingestBlock c l
  | produce ch => cases ht; exact withChannel_keeps (h.reject _) h.produceFrame
  | pop ch => cases ht; exact withChannel_keeps (h.reject _) h.popFrame
  | clear ch => cases ht; exact withChannel_keeps (h.reject _) h.clearChannel

/-! ### Host accesses -/

/-- A host write to a register keeps the invariant: each writable register legalises (10_state.md R37 to R50). -/
theorem Inv.hostWriteReg {s : State} (h : Inv s) (r : Reg) (v : Word) : Inv (hostWriteReg s r v) := by
  cases r with
  | ctrl => exact { h with ctrl := ctrlWrite_legal h.ctrl.2 v }
  | status => exact h.setStatus (and_within h.status _)
  | arg0 | arg1 | arg2 => exact { h with }
  | sampleRate => exact { h with sampleRate := rangeWrite_inRange h.sampleRate (by decide) (by decide) (by decide) }
  | floorDb => exact { h with floorDb := rangeWrite_inRange h.floorDb (by decide) (by decide) (by decide) }
  | respFloorDb => exact { h with respFloorDb := rangeWrite_inRange h.respFloorDb (by decide) (by decide) (by decide) }
  | fmin => exact { h with fmin := rangeWrite_inRange h.fmin (by decide) (by decide) (by decide) }
  | fmax => exact { h with fmax := rangeWrite_inRange h.fmax (by decide) (by decide) (by decide) }
  | width =>
    obtain ⟨-, -, hj, -⟩ := legal_bounds h.build
    exact { h with width := (widthWrite_toNat hj v).trans_le (min_le_right _ _) }
  | bypass => exact h.setBypass (by rw [BitVec.and_assoc, BitVec.and_self])
  | id | version | cfg | errcode | cmd | result | fqstat | dropcnt | binWidth => exact h

/-- A host store keeps the invariant: besides a register it writes only a word of a staging buffer (10_state.md R57). -/
theorem Inv.storeLoc {s : State} (h : Inv s) (l : Loc) (v : Word) : Inv (storeLoc s l v) := by
  unfold Machine.storeLoc
  split
  · exact h.hostWriteReg _ v
  · split
    · next hi => exact h.setMem (memOk_writeWords _ _ _ _ [v] h.mem hi)
    · exact h
  all_goals exact h

/-- The state that an action hands on, if any, satisfies the invariant. -/
def HostAction.HandsOnInv : HostAction → Prop
  | .done t => Inv t
  | .run _ t => Inv t
  | .stop _ => True

theorem Inv.issue_handsOnInv {s : State} (h : Inv s) (v : Word) : (issue s v).HandsOnInv := by
  unfold issue
  split
  · exact h.reject _
  · exact h

theorem Inv.busRead_handsOnInv {s : State} (h : Inv s) (off size : Nat) : (busRead s off size).HandsOnInv := by
  unfold busRead
  split
  · exact h.setHost _
  · exact h.recordBusError.setHost _

theorem Inv.busWrite_handsOnInv {s : State} (h : Inv s) (off size : Nat) (v : Word) :
    (busWrite s off size v).HandsOnInv := by
  unfold busWrite
  split
  · split
    · exact Inv.issue_handsOnInv (h.setHost _) v
    · exact Inv.storeLoc (h.setHost _) _ v
  · exact h.recordBusError.setHost _

theorem onWindow_handsOnInv {s : State} {addr : Nat} {serve : Nat → HostAction}
    (h : ∀ off, (serve off).HandsOnInv) : (onWindow s addr serve).HandsOnInv := by
  unfold onWindow
  split
  · trivial
  · split
    · exact h _
    · trivial

theorem Inv.stmtAction_handsOnInv {s : State} (h : Inv s) (st : HostStmt) : (stmtAction s st).HandsOnInv := by
  cases st with
  | write addr size v => exact onWindow_handsOnInv fun off => Inv.busWrite_handsOnInv (h.setHost _) off size v
  | read addr size => exact onWindow_handsOnInv fun off => Inv.busRead_handsOnInv (h.setHost _) off size
  | bnz target | bz target =>
    simp only [stmtAction, HostAction.HandsOnInv]
    split <;> exact h.setHost _
  | jmp target => exact h.setHost _
  | halt => exact h
  | assertReset => exact Inv.setHost (Inv.resetBlock (h.setHost _)) _
  | releaseReset => exact Inv.setHost (h.setHost _) _

theorem Inv.hostAction_handsOnInv {s : State} (h : Inv s) : (hostAction s).HandsOnInv := by
  unfold hostAction
  split
  · exact h.stmtAction_handsOnInv _
  · exact h

end Sys2Proof.Machine

open Sys2Proof Sys2Proof.Machine

/-- Settles O12: the host's action hands on a state that satisfies the invariant, and so does the command it may run. -/
theorem stepKeepsInvariant : Obligations.StepKeepsInvariant := by
  intro s t hinv hstep
  have hact := hinv.hostAction_handsOnInv
  rcases step_cases s with ⟨u, ha, hs⟩ | ⟨i, u, ha, hs⟩ | ⟨r, ha, hs⟩ <;> rw [ha] at hact <;> rw [hs] at hstep
  · cases hstep; exact hact
  · exact Inv.exec hact hstep
  · cases hstep
end

section
/-! What the commands leave to the host (00_scope.md R6; 10_state.md R37, R43, R57), and that none of them reads STATUS
(10_state.md R33, R39). -/

namespace Sys2Proof.Machine

/-! ### The host's registers and the staging buffers -/

/-- `t` holds what `s` holds in everything but RESET leaves to the host: the build parameters, the host itself, the
registers that only the host writes, and the bytes of the staging buffers. -/
structure SameHostPart (s t : State) : Prop where
  build : t.build = s.build
  host : t.host = s.host
  ctrl : t.ctrl = s.ctrl
  arg0 : t.arg0 = s.arg0
  arg1 : t.arg1 = s.arg1
  arg2 : t.arg2 = s.arg2
  sampleRate : t.sampleRate = s.sampleRate
  floorDb : t.floorDb = s.floorDb
  respFloorDb : t.respFloorDb = s.respFloorDb
  fmin : t.fmin = s.fmin
  fmax : t.fmax = s.fmax
  width : t.width = s.width
  staging : ∀ a, 0x100000 ≤ a → a < 0x180000 → readByte t.mem a = readByte s.mem a

theorem SameHostPart.refl (s : State) : SameHostPart s s := by constructor <;> intros <;> rfl

section
variable {s t : State} (h : SameHostPart s t)
include h

theorem SameHostPart.setResult (w : Word) : SameHostPart s (State.setResult t w) := { h with }

theorem SameHostPart.setStatus (w : Word) : SameHostPart s (State.setStatus t w) := { h with }

theorem SameHostPart.setErrcode (b : Byte) : SameHostPart s (State.setErrcode t b) := { h with }

theorem SameHostPart.setCoef (coef : Vector Coefs 9) : SameHostPart s (State.setCoef t coef) := { h with }

theorem SameHostPart.setBypass (w : Word) : SameHostPart s (State.setBypass t w) := { h with }

theorem SameHostPart.setChan (c : Channel) (x : Chan) : SameHostPart s (State.setChan t c x) := by
  cases c <;> exact { h with }

/-- A store past the staging buffers leaves them as they are. -/
theorem SameHostPart.writeBuf {b : Buf} (hb : 0x180000 ≤ bufBase b) (ws : List Word) :
    SameHostPart s (State.writeBuf t b ws) :=
  { h with staging := fun a hlo hhi =>
      (readByte_writeWords_outside _ _ ws a (.inl (by omega))).trans (h.staging a hlo hhi) }

theorem SameHostPart.setFlag (f : Flag) : SameHostPart s (State.setFlag t f) := h.setStatus _

theorem SameHostPart.reject (e : ErrCode) : SameHostPart s (State.reject t e) := (h.setFlag .err).setErrcode _

theorem SameHostPart.recordClamp (e : ErrCode) : SameHostPart s (State.recordClamp t e) :=
  (h.setFlag .clamped).setErrcode _

theorem SameHostPart.noteNonFinite (met : Bool) : SameHostPart s (State.noteNonFinite t met) := by
  cases met
  · exact h
  · exact h.setFlag .nonfinite

theorem SameHostPart.designCut (base lo o : Nat) (f : Nat → Coefs) : SameHostPart s (designCut t base lo o f) :=
  ((h.setCoef _).setBypass _).setResult 0

theorem SameHostPart.sweepColumns (hi : Word) : SameHostPart s (sweepColumns t hi) :=
  ((h.writeBuf (by decide) _).noteNonFinite _).setResult _

theorem SameHostPart.ingestBlock (c : Channel) (l : Nat) : SameHostPart s (ingestBlock t c l) := by
  unfold Machine.ingestBlock
  split
  · exact h.setResult 0
  · exact ((h.writeBuf (by cases c <;> decide) _).setChan c _).setResult _

theorem SameHostPart.enqueue (c : Channel) (f : Frame) : SameHostPart s (enqueue t c f) := by
  rcases enqueue_cases t c f with ⟨-, heq⟩ | ⟨-, heq⟩ <;> rw [heq]
  · exact (h.setChan c _).setFlag _
  · exact h.setChan c _

theorem SameHostPart.produceFrame (c : Channel) : SameHostPart s (produceFrame t c) := by
  unfold Machine.produceFrame
  split
  · exact (((h.noteNonFinite _).enqueue c _).setChan c _).setResult 1
  · exact h.setResult 0

theorem SameHostPart.popFrame (c : Channel) : SameHostPart s (popFrame t c) := by
  unfold Machine.popFrame
  split
  · exact h.setResult 0
  · exact ((h.writeBuf (by cases c <;> decide) _).setChan c _).setResult 1

theorem SameHostPart.clearChannel (c : Channel) : SameHostPart s (clearChannel t c) :=
  ((h.writeBuf (by cases c <;> decide) _).setChan c _).setResult 0

theorem SameHostPart.classD {α : Type} {ok : Bool} {e : ErrCode} {x y : α} {go : α → State → State}
    (hgo : ∀ z u, SameHostPart s u → SameHostPart s (go z u)) : SameHostPart s (classD t ok e x y go) :=
  classD_keeps h (h.reject e) (h.recordClamp e) hgo

end

/-- Every command but RESET leaves the host's part of the state as it is. -/
theorem exec_sameHostPart {s t : State} {i : Instr} (hi : i ≠ .reset) (ht : exec i s = .next t) : SameHostPart s t := by
  have h := SameHostPart.refl s
  cases i with
  | nop => cases ht; exact h.setResult 0
  | reset => exact absurd rfl hi
  | chainReset => cases ht; exact ((h.setCoef _).setBypass _).setResult 0
  | designLowcut imm => cases ht; exact h.classD fun o u hu => hu.designCut _ _ o _
  | designPeak => cases ht; exact ((h.setCoef _).setBypass _).setResult 0
  | designHighcut imm => cases ht; exact h.classD fun o u hu => hu.designCut _ _ o _
  | magAt => cases ht; split <;> exact (h.noteNonFinite _).setResult _
  | sweep => cases ht; exact h.classD fun hi u hu => hu.sweepColumns hi
  | ingest ch imm =>
    cases ht
    exact withChannel_keeps (h.reject _) fun c => h.classD fun l u hu => hu.ingestBlock c l
  | produce ch => cases ht; exact withChannel_keeps (h.reject _) h.produceFrame
  | pop ch => cases ht; exact withChannel_keeps (h.reject _) h.popFrame
  | clear ch => cases ht; exact withChannel_keeps (h.reject _) h.clearChannel

/-! ### Runs from states that differ in STATUS alone -/

/-- `t` and `t'` come from two runs that began at `s` and at `s` with STATUS `st`: both have the same bits of STATUS set on
top of what was there, and agree in everything else. -/
def SameButStatus (s : State) (st : Word) (t t' : State) : Prop :=
  ∃ m, t.status = s.status ||| m ∧ t' = State.setStatus t (st ||| m)

theorem SameButStatus.start (s : State) (st : Word) : SameButStatus s st s (State.setStatus s st) :=
  ⟨0, by simp, by simp⟩

section
variable {s t t' : State} {st : Word} (h : SameButStatus s st t t')
include h

/-- An operation that neither reads nor writes STATUS. -/
theorem SameButStatus.map {op : State → State} (hcomm : ∀ u w, op (State.setStatus u w) = State.setStatus (op u) w)
    (hkeep : ∀ u, (op u).status = u.status) : SameButStatus s st (op t) (op t') := by
  obtain ⟨m, hm, rfl⟩ := h
  exact ⟨m, (hkeep t).trans hm, hcomm t _⟩

/-- What does not depend on STATUS is the same in both runs. -/
theorem SameButStatus.read {β : Type} {f : State → β} (hf : ∀ u w, f (State.setStatus u w) = f u) : f t' = f t := by
  obtain ⟨m, -, rfl⟩ := h
  exact hf t _

theorem SameButStatus.chan (c : Channel) : State.chan t' c = State.chan t c :=
  h.read (f := (State.chan · c)) fun u w => State.chan_setStatus u w c

theorem SameButStatus.setResult (w : Word) : SameButStatus s st (State.setResult t w) (State.setResult t' w) :=
  h.map (op := (State.setResult · w)) (fun _ _ => rfl) fun _ => rfl

theorem SameButStatus.setErrcode (b : Byte) : SameButStatus s st (State.setErrcode t b) (State.setErrcode t' b) :=
  h.map (op := (State.setErrcode · b)) (fun _ _ => rfl) fun _ => rfl

theorem SameButStatus.setCoef (coef : Vector Coefs 9) :
    SameButStatus s st (State.setCoef t coef) (State.setCoef t' coef) :=
  h.map (op := (State.setCoef · coef)) (fun _ _ => rfl) fun _ => rfl

theorem SameButStatus.setBypass (w : Word) : SameButStatus s st (State.setBypass t w) (State.setBypass t' w) :=
  h.map (op := (State.setBypass · w)) (fun _ _ => rfl) fun _ => rfl

theorem SameButStatus.writeBuf (b : Buf) (ws : List Word) :
    SameButStatus s st (State.writeBuf t b ws) (State.writeBuf t' b ws) :=
  h.map (op := (State.writeBuf · b ws)) (fun _ _ => rfl) fun _ => rfl

theorem SameButStatus.setChan (c : Channel) (x : Chan) :
    SameButStatus s st (State.setChan t c x) (State.setChan t' c x) := by
  cases c
  · exact h.map (op := (State.setChan · .c0 x)) (fun _ _ => rfl) fun _ => rfl
  · exact h.map (op := (State.setChan · .c1 x)) (fun _ _ => rfl) fun _ => rfl

theorem SameButStatus.setFlag (f : Flag) : SameButStatus s st (State.setFlag t f) (State.setFlag t' f) := by
  obtain ⟨m, hm, rfl⟩ := h
  refine ⟨m ||| flagMask f, ?_, ?_⟩
  · rw [State.setFlag_status, statusSet, hm, BitVec.or_assoc]
  · rw [← BitVec.or_assoc]; rfl

theorem SameButStatus.reject (e : ErrCode) : SameButStatus s st (State.reject t e) (State.reject t' e) :=
  (h.setFlag .err).setErrcode _

theorem SameButStatus.recordClamp (e : ErrCode) : SameButStatus s st (State.recordClamp t e) (State.recordClamp t' e) :=
  (h.setFlag .clamped).setErrcode _

theorem SameButStatus.noteNonFinite (met : Bool) :
    SameButStatus s st (State.noteNonFinite t met) (State.noteNonFinite t' met) := by
  cases met
  · exact h
  · exact h.setFlag .nonfinite

theorem SameButStatus.sweepColumns (hi : Word) : SameButStatus s st (sweepColumns t hi) (sweepColumns t' hi) := by
  have hmags : columnMags t' hi = columnMags t hi := h.read (f := (columnMags · hi)) fun _ _ => rfl
  have hdb : columnDb t' = columnDb t := h.read fun _ _ => rfl
  have hwidth : t'.width = t.width := h.read fun _ _ => rfl
  unfold Machine.sweepColumns
  rw [hmags, hdb, hwidth]
  exact ((h.writeBuf _ _).noteNonFinite _).setResult _

theorem SameButStatus.ingestBlock (c : Channel) (l : Nat) :
    SameButStatus s st (ingestBlock t c l) (ingestBlock t' c l) := by
  have hrw : readBuf t' (.rw c) = readBuf t (.rw c) := h.read (f := (readBuf · (.rw c))) fun _ _ => rfl
  have hsb : readBuf t' (.sb c) = readBuf t (.sb c) := h.read (f := (readBuf · (.sb c))) fun _ _ => rfl
  unfold Machine.ingestBlock
  rw [hrw, hsb, h.chan c]
  split
  · exact h.setResult 0
  · exact ((h.writeBuf _ _).setChan c _).setResult _

theorem SameButStatus.enqueue (c : Channel) (f : Frame) :
    SameButStatus s st (enqueue t c f) (enqueue t' c f) := by
  have hcap : t'.build.fqCap = t.build.fqCap := h.read (f := (·.build.fqCap)) fun _ _ => rfl
  unfold Machine.enqueue
  rw [h.chan c, hcap]
  dsimp only
  split
  · exact (h.setChan c _).setFlag _
  · exact h.setChan c _

theorem SameButStatus.clearFresh (c : Channel) : SameButStatus s st (clearFresh t c) (clearFresh t' c) := by
  unfold Machine.clearFresh
  rw [h.chan c]
  exact h.setChan c _

theorem SameButStatus.produceFrame (c : Channel) :
    SameButStatus s st (produceFrame t c) (produceFrame t' c) := by
  have hframe : frameOf t' c = frameOf t c := h.read (f := (frameOf · c)) fun _ _ => rfl
  unfold Machine.produceFrame
  rw [h.chan c, hframe]
  split
  · exact (((h.noteNonFinite _).enqueue c _).clearFresh c).setResult 1
  · exact h.setResult 0

theorem SameButStatus.popFrame (c : Channel) : SameButStatus s st (popFrame t c) (popFrame t' c) := by
  unfold Machine.popFrame
  rw [h.chan c]
  split
  · exact h.setResult 0
  · exact ((h.writeBuf _ _).setChan c _).setResult 1

theorem SameButStatus.clearChannel (c : Channel) : SameButStatus s st (clearChannel t c) (clearChannel t' c) := by
  have hn : Build.n t'.build = Build.n t.build := h.read (f := (Build.n ·.build)) fun _ _ => rfl
  unfold Machine.clearChannel
  rw [hn]
  exact ((h.writeBuf _ _).setChan c _).setResult 0

theorem SameButStatus.classD {α : Type} (ok : Bool) (e : ErrCode) (x y : α) {go : α → State → State}
    (hgo : ∀ z {u u'}, SameButStatus s st u u' → SameButStatus s st (go z u) (go z u')) :
    SameButStatus s st (classD t ok e x y go) (classD t' ok e x y go) := by
  have hstrict : t'.strict = t.strict := h.read fun _ _ => rfl
  unfold Machine.classD
  rw [hstrict]
  split
  · exact hgo x h
  · split
    · exact h.reject e
    · exact hgo y (h.recordClamp e)

theorem SameButStatus.classD_map {α : Type} {ok : Bool} {e : ErrCode} {x y : α} {go : α → State → State}
    (hcomm : ∀ z u w, go z (State.setStatus u w) = State.setStatus (go z u) w)
    (hkeep : ∀ z u, (go z u).status = u.status) :
    SameButStatus s st (Machine.classD t ok e x y go) (Machine.classD t' ok e x y go) :=
  h.classD ok e x y fun z _ _ hu => hu.map (hcomm z) (hkeep z)

theorem SameButStatus.withChannel (ch : Nat) {go go' : Channel → State}
    (hgo : ∀ c, SameButStatus s st (go c) (go' c)) :
    SameButStatus s st (withChannel t ch go) (withChannel t' ch go') := by
  unfold Machine.withChannel
  split
  · exact hgo _
  · exact h.reject _

end

theorem designCut_setStatus (u : State) (w : Word) (base lo o : Nat) (f : Nat → Coefs) :
    designCut (State.setStatus u w) base lo o f = State.setStatus (designCut u base lo o f) w := rfl

theorem designCut_status (u : State) (base lo o : Nat) (f : Nat → Coefs) :
    (designCut u base lo o f).status = u.status := by simp [designCut]

/-- MAG_AT in one form: a frequency that is not finite and a NaN result are noted (42_magnitude_response.md R205). -/
theorem exec_magAt (s : State) : exec .magAt s = .next (State.setResult
    (State.noteNonFinite s (!isFinite s.arg0 || isNaN (magEval s s.arg0)))
    (if isFinite s.arg0 then magEval s s.arg0 else qnan)) := by
  by_cases hf : isFinite s.arg0 <;> simp [exec, execMagAt, hf]

/-- Every command but RESET does the same from a state that differs in STATUS alone. -/
theorem exec_sameButStatus {s t : State} {i : Instr} (hi : i ≠ .reset) (ht : exec i s = .next t) (st : Word) :
    ∃ t', exec i (State.setStatus s st) = .next t' ∧ SameButStatus s st t t' := by
  have h := SameButStatus.start s st
  cases i with
  | nop => cases ht; exact ⟨_, rfl, h.setResult 0⟩
  | reset => exact absurd rfl hi
  | chainReset | designPeak => cases ht; exact ⟨_, rfl, ((h.setCoef _).setBypass _).setResult 0⟩
  | designLowcut imm | designHighcut imm =>
    cases ht
    exact ⟨_, rfl, h.classD_map (fun _ _ _ => designCut_setStatus _ _ _ _ _ _) fun _ _ => designCut_status _ _ _ _ _⟩
  | magAt =>
    rw [exec_magAt] at ht
    cases ht
    exact ⟨_, exec_magAt _, (h.noteNonFinite _).setResult _⟩
  | sweep => cases ht; exact ⟨_, rfl, h.classD _ _ _ _ fun hi _ _ hu => hu.sweepColumns hi⟩
  | ingest ch imm =>
    cases ht
    exact ⟨_, rfl, h.withChannel ch fun c => h.classD _ _ _ _ fun l _ _ hu => hu.ingestBlock c l⟩
  | produce ch => cases ht; exact ⟨_, rfl, h.withChannel ch h.produceFrame⟩
  | pop ch => cases ht; exact ⟨_, rfl, h.withChannel ch h.popFrame⟩
  | clear ch => cases ht; exact ⟨_, rfl, h.withChannel ch h.clearChannel⟩

end Sys2Proof.Machine

open Sys2Proof Sys2Proof.Machine

/-- Settles O39: the host's part of the state is kept by every operation that a command is made of. -/
theorem commandsLeaveHostRegisters : Obligations.CommandsLeaveHostRegisters := by
  intro i s t hi ht
  obtain ⟨hbuild, hhost, hctrl, ha0, ha1, ha2, hrate, hfloor, hresp, hmin, hmax, hwidth, hstage⟩ :=
    exec_sameHostPart hi ht
  exact ⟨hbuild, hhost, hctrl, ha0, ha1, ha2, hrate, hfloor, hresp, hmin, hmax, hwidth, hstage⟩

/-- Settles O40: two runs from states that differ in STATUS alone stay so; RESET does not look at STATUS either. -/
theorem commandsDoNotReadStatus : Obligations.CommandsDoNotReadStatus := by
  intro i s t st ht
  refine ⟨fun hi => ?_, ?_⟩
  · obtain ⟨t', hrun, m, hm, rfl⟩ := exec_sameButStatus hi ht st
    exact ⟨m, hm, hrun⟩
  · rintro rfl
    exact ht
end

section
/-! The registers as the host writes them (10_state.md R37 to R50, R53), and the inclusion of sections (R56). -/

namespace Sys2Proof.Machine

/-! ### CTRL -/

theorem win_eq (s : State) : s.win = (s.ctrl.extractLsb' 1 2).toNat := rfl

theorem win_and_six (c : Word) : (c &&& 6).extractLsb' 1 2 = c.extractLsb' 1 2 := by
  rw [BitVec.extractLsb'_and]
  exact BitVec.and_allOnes

theorem win_and_seven (c : Word) : (c &&& 7).extractLsb' 1 2 = c.extractLsb' 1 2 := by
  rw [BitVec.extractLsb'_and]
  exact BitVec.and_allOnes

theorem win_and_one (c : Word) : (c &&& 1).extractLsb' 1 2 = 0 := by
  rw [BitVec.extractLsb'_and]
  exact BitVec.and_zero

/-- The test of a CTRL write for WIN = 3 (10_state.md R38). -/
theorem and_six_eq_six_iff (v : Word) : v &&& 6 = 6 ↔ (v.extractLsb' 1 2).toNat = 3 := by
  rw [show (3 : Nat) = (3 : BitVec 2).toNat from rfl, BitVec.toNat_inj]
  constructor <;> intro h
  · rw [← win_and_six, h]; decide
  · ext i hi
    have h1 : v[1] = true := by simpa using congrArg (·.getLsbD 0) h
    have h2 : v[2] = true := by simpa using congrArg (·.getLsbD 1) h
    interval_cases i <;> simp [h1, h2]

/-- WIN after a CTRL write (10_state.md R37, R38). -/
theorem ctrlWrite_win (old v : Word) :
    (ctrlWrite old v).extractLsb' 1 2 =
      if (v.extractLsb' 1 2).toNat = 3 then old.extractLsb' 1 2 else v.extractLsb' 1 2 := by
  simp only [ctrlWrite, and_six_eq_six_iff]
  split
  · rw [BitVec.extractLsb'_or, win_and_six, win_and_one]
    exact BitVec.or_zero
  · exact win_and_seven v

/-- STRICT after a CTRL write (10_state.md R37). -/
theorem ctrlWrite_strict (old v : Word) : (ctrlWrite old v).getLsbD 0 = v.getLsbD 0 := by
  unfold ctrlWrite
  split <;> simp

/-- The reserved bits of CTRL stay 0 (10_state.md R37). -/
theorem ctrlWrite_lt (old v : Word) : (ctrlWrite old v).toNat < 8 := by
  unfold ctrlWrite
  split
  · rw [BitVec.toNat_or, BitVec.toNat_and, BitVec.toNat_and]
    exact Nat.or_lt_two_pow (n := 3) (Nat.and_le_right.trans_lt (by decide)) (Nat.and_le_right.trans_lt (by decide))
  · rw [BitVec.toNat_and]
    exact Nat.and_le_right.trans_lt (by decide)

/-! ### The `f32` registers -/

/-- A legalised write does what the four cases of the rule say (10_state.md R44, R45, R47). -/
theorem rangeWrite_legalised {lo hi : Word} (hlo : isNaN lo = false) (hhi : isNaN hi = false)
    (hle : f32Key lo ≤ f32Key hi) (old v : Word) : Legalised old v lo hi (rangeWrite old v lo hi) := by
  refine ⟨fun hv => if_pos hv, fun hv hbelow => ?_, fun hv habove => ?_, fun hv h1 h2 => ?_⟩ <;>
    rw [rangeWrite, if_neg (by simp [hv])]
  · have hmax : f32Max v lo = lo := if_pos (by simp [f32Lt, hv, hlo, hbelow])
    rw [f32Clamp, hmax]
    exact if_neg (by simp [f32Lt, hhi, hlo, hle])
  · have hmax : f32Max v lo = v := if_neg (by simp [f32Lt, hv, hlo]; omega)
    rw [f32Clamp, hmax]
    exact if_pos (by simp [f32Lt, hv, hhi, habove])
  · exact f32Clamp_of_inRange h1 h2

/-! ### STATUS -/

theorem statusMask_bit {b : Nat} (hb : b < 32) : statusMask.getLsbD b = decide (b < 6) := by
  revert b
  decide

/-- A STATUS write clears the defined bits that are written 1 (10_state.md R39). -/
theorem statusW1c_bit (st v : Word) {b : Nat} (hb : b < 32) :
    (statusW1c st v).getLsbD b = (st.getLsbD b && !(decide (b < 6) && v.getLsbD b)) := by
  simp only [statusW1c, BitVec.getLsbD_and, BitVec.getLsbD_not, statusMask_bit hb, decide_eq_true hb, Bool.true_and,
    Bool.and_comm (v.getLsbD b)]

/-! ### Sections -/

theorem included_iff (bypass : Word) (i : Nat) :
    included bypass i = true ↔ bypass.getLsbD (stageBit i) = false ∧ bypass.getLsbD (sectionBit i) = false := by
  simp [included]

end Sys2Proof.Machine

open Sys2Proof Sys2Proof.Machine

/-- Settles O24, by the bit of each section's stage and the section's own bit. -/
theorem includedSectionsByBypass : Obligations.IncludedSectionsByBypass := by
  intro b
  refine ⟨fun j hj => ?_, included_iff b 4, fun j hj => ?_, ?_⟩
  · rw [included_iff, stageBit, sectionBit, if_pos hj, if_pos hj]
  · rw [included_iff, stageBit, sectionBit, if_neg (by omega), if_neg (by omega), if_neg (by omega), if_neg (by omega),
      show 7 + (5 + j) = 12 + j by omega]
  · rintro s rfl
    rfl

/-- Settles O42, field by field. -/
theorem ctrlWriteIsLegalised : Obligations.CtrlWriteIsLegalised := by
  intro s v _ hwin
  have hnew : (hostWriteReg s .ctrl v).win =
      if (v.extractLsb' 1 2).toNat = 3 then s.win else (v.extractLsb' 1 2).toNat := by
    rw [win_eq, win_eq]
    exact (congrArg BitVec.toNat (ctrlWrite_win s.ctrl v)).trans (apply_ite _ _ _ _)
  refine ⟨rfl, ctrlWrite_lt _ _, ?_, ctrlWrite_strict _ _, hnew⟩
  rw [hnew]
  split
  · exact hwin
  · assumption

/-- Settles O43: each register's write is the legalised write of its range. -/
theorem floatRegistersAreLegalised : Obligations.FloatRegistersAreLegalised := fun s v =>
  ⟨⟨_, rfl, rangeWrite_legalised (by decide) (by decide) (by decide) s.sampleRate v⟩,
    ⟨_, rfl, rangeWrite_legalised (by decide) (by decide) (by decide) s.floorDb v⟩,
    ⟨_, rfl, rangeWrite_legalised (by decide) (by decide) (by decide) s.respFloorDb v⟩,
    ⟨_, rfl, rangeWrite_legalised (by decide) (by decide) (by decide) s.fmin v⟩,
    ⟨_, rfl, rangeWrite_legalised (by decide) (by decide) (by decide) s.fmax v⟩⟩

/-- Settles O44. -/
theorem integerRegisterWrites : Obligations.IntegerRegisterWrites := fun s v hj =>
  ⟨⟨_, rfl, fun _ hb => statusW1c_bit s.status v hb⟩, ⟨_, rfl, widthWrite_toNat hj v⟩, rfl, rfl, rfl, rfl⟩
end

section
/-! The staging buffers: the buffers of a legal build do not overlap, so a staging word changes no other location
(10_state.md R57; 20_memory.md R81, R88). -/

namespace Sys2Proof.Machine

/-- A buffer starts at the 256 KiB block that the region map gives it (20_memory.md R81). -/
theorem bufAt_bufBase (f : Buf) : bufAt (bufBase f / 0x40000) = some f ∧ bufBase f % 0x40000 = 0 := by
  cases f with
  | sb c | rw c | fout c => cases c <;> exact ⟨rfl, rfl⟩
  | resp => exact ⟨rfl, rfl⟩

/-- No buffer of a legal build is longer than its block (00_scope.md R6). -/
theorem bufLen_le {b : Build} (h : Build.legal b = true) (f : Buf) : bufLen b f ≤ 0x10000 := by
  obtain ⟨⟨-, hk⟩, -, hj, -⟩ := legal_bounds h
  have hn : Build.n b ≤ 2 ^ 15 := Nat.pow_le_pow_right (by decide) hk
  cases f with
  | sb c | rw c => exact hn.trans (by decide)
  | fout c => exact (Nat.div_le_self _ _).trans (hn.trans (by decide))
  | resp => exact (wmax_le hj).trans (by decide)

/-- Two words of the buffers, not the same one, are stored apart. -/
theorem bufWords_apart {b : Build} (h : Build.legal b = true) {f g : Buf} {i j : Nat} (hi : i < bufLen b f)
    (hj : j < bufLen b g) (hne : Loc.buf g j ≠ .buf f i) :
    bufBase g + 4 * j + 4 ≤ bufBase f + 4 * i ∨ bufBase f + 4 * i + 4 ≤ bufBase g + 4 * j := by
  obtain ⟨hf, hfmod⟩ := bufAt_bufBase f
  obtain ⟨hg, hgmod⟩ := bufAt_bufBase g
  have hflen := bufLen_le h f
  have hglen := bufLen_le h g
  by_cases hblock : bufBase g / 0x40000 = bufBase f / 0x40000
  · obtain rfl : g = f := by simpa [hf, hg] using congrArg bufAt hblock
    have hij : j ≠ i := by rintro rfl; exact hne rfl
    omega
  · omega

@[simp] theorem regRead_setMem (s : State) (m : Memory) (r : Reg) : regRead (State.setMem s m) r = regRead s r := by
  cases r <;> rfl

/-- What a location reads after one word of a buffer is stored: that word there, and what it read before elsewhere. -/
theorem loadLoc_setMem_word {s : State} (h : Build.legal s.build = true) {f : Buf} {i : Nat} (hi : i < bufLen s.build f)
    (v : Word) (l : Loc) :
    loadLoc (State.setMem s (writeWords s.mem (bufBase f + 4 * i) [v])) l =
      if l = .buf f i then v else loadLoc s l := by
  split
  · next hl =>
    rw [hl, loadLoc, State.setMem_build, if_pos hi]
    exact readWord_writeWords_inside s.mem (bufBase f + 4 * i) [v] 0 Nat.one_pos
  · next hl =>
    cases l with
    | reg r => exact regRead_setMem s _ r
    | coef j k => rfl
    | reserved => rfl
    | buf g j =>
      by_cases hj : j < bufLen s.build g <;>
        simp only [loadLoc, State.setMem_build, State.setMem_mem, hj, if_true, if_false]
      exact readWord_writeWords_outside s.mem _ [v] _ (bufWords_apart h hi hj hl)

theorem storeLoc_sb {s : State} {c : Channel} {i : Nat} (hi : i < Build.n s.build) (v : Word) :
    storeLoc s (.buf (.sb c) i) v = State.setMem s (writeWords s.mem (bufBase (.sb c) + 4 * i) [v]) := if_pos hi

end Sys2Proof.Machine

open Sys2Proof Sys2Proof.Machine

/-- Settles O49: the store changes one word of the memory, which is apart from every other word of the buffers. -/
theorem stagingWordsAreVerbatim : Obligations.StagingWordsAreVerbatim := by
  intro s c i v hlegal hi
  rw [storeLoc_sb hi]
  refine ⟨rfl, ?_, fun l hl => ?_⟩
  · rw [loadLoc_setMem_word hlegal hi, if_pos rfl]
  · rw [loadLoc_setMem_word hlegal hi, if_neg hl]
end

section
/-! BIN_WIDTH: a legal sample rate divided by `N` is an `f32`, so nothing is rounded (10_state.md R53). -/

namespace Sys2Proof.Machine

/-- A normal magnitude whose exponent allows it is divided by a power of two exactly. -/
theorem magUnits_div_pow {m k : Nat} (hk : (k + 1) * 0x800000 ≤ m) :
    magUnits (m - k * 0x800000) * 2 ^ k = magUnits m := by
  obtain hlt | ⟨e, f, hf, rfl⟩ := subnormal_or_normal m
  · omega
  · obtain ⟨d, rfl⟩ : ∃ d, e = d + k := ⟨e - k, by omega⟩
    rw [show (d + k + 1) * 0x800000 + f - k * 0x800000 = (d + 1) * 0x800000 + f by omega, magUnits_normal hf,
      magUnits_normal hf, pow_add, mul_assoc]

/-- `val(v) / 2^k` as a word, for a positive `v` that is large enough. -/
def divPow (v : Word) (k : Nat) : Word := BitVec.ofNat 32 (f32Mag v - k * 0x800000)

theorem f32Mag_divPow (v : Word) (k : Nat) : f32Mag (divPow v k) = f32Mag v - k * 0x800000 :=
  f32Mag_ofNat ((Nat.sub_le _ _).trans_lt (f32Mag_lt v))

theorem f32Neg_divPow (v : Word) (k : Nat) : f32Neg (divPow v k) = false :=
  f32Neg_ofNat ((Nat.sub_le _ _).trans_lt (f32Mag_lt v))

theorem isFinite_divPow {v : Word} (hv : isFinite v = true) (k : Nat) : isFinite (divPow v k) = true := by
  simp only [isFinite, decide_eq_true_eq, f32Mag_divPow] at hv ⊢
  omega

theorem valUnits_divPow {v : Word} (hneg : f32Neg v = false) {k : Nat} (hk : (k + 1) * 0x800000 ≤ f32Mag v) :
    valUnits (divPow v k) * 2 ^ k = valUnits v := by
  have hmag := magUnits_div_pow hk
  simp only [valUnits, hneg, f32Neg_divPow, f32Mag_divPow, Bool.false_eq_true, if_false]
  exact_mod_cast hmag

/-- An exact quotient is not rounded (00_scope.md R10). -/
theorem rne32_divPow {v : Word} (hv : isFinite v = true) (hneg : f32Neg v = false) {k : Nat}
    (hk : (k + 1) * 0x800000 ≤ f32Mag v) : rne32 (valUnits v) (unitsPerOne * 2 ^ k) = divPow v k := by
  have hquot : (valUnits v : ℝ) / (unitsPerOne * 2 ^ k : ℕ) = Ideal.val (divPow v k) := by
    rw [Ideal.val_eq_units, ← valUnits_divPow hneg hk]
    push_cast
    rw [mul_div_mul_right _ _ (by positivity)]
  rw [Ideal.machine_rne32_eq _ (by unfold unitsPerOne; positivity), hquot]
  refine Ideal.rne32_val (isFinite_divPow hv k) fun hz => ?_
  have := f32Neg_divPow v k
  rw [hz] at this
  exact absurd this (by decide)

/-- A legal sample rate is positive, and at least the exponent of 1000 (10_state.md R44). -/
theorem sampleRate_bounds {v : Word} (h : InRange v sampleRateLow sampleRateHigh) :
    f32Neg v = false ∧ 0x447A0000 ≤ f32Mag v := by
  obtain ⟨-, hlow, -⟩ := h
  rw [show f32Key sampleRateLow = 0x447A0000 by decide, f32Key] at hlow
  split at hlow
  · omega
  · next hneg => exact ⟨by simpa using hneg, by omega⟩

end Sys2Proof.Machine

open Sys2Proof Sys2Proof.Machine

/-- Settles O50: `N` is a power of two, and the exponent of a legal rate is large enough to be divided by it exactly. -/
theorem binWidthIsExact : Obligations.BinWidthIsExact := by
  refine ⟨fun s hlegal hrate => ?_, by decide⟩
  obtain ⟨⟨-, hk⟩, -⟩ := legal_bounds hlegal
  obtain ⟨hneg, hmag⟩ := sampleRate_bounds hrate
  have hexp : (s.build.k + 1) * 0x800000 ≤ f32Mag s.sampleRate := by omega
  have hread : regRead s .binWidth = divPow s.sampleRate s.build.k := rne32_divPow hrate.1 hneg hexp
  refine ⟨rfl, ?_, ?_, fun _ => rfl⟩ <;> rw [hread]
  · exact isFinite_divPow hrate.1 _
  · exact_mod_cast valUnits_divPow hneg hexp
end

section
/-! A host access as one step: which accesses are accepted, and what a served one leaves (20_memory.md R82, R87 to R90;
60_exceptions.md R273). -/

namespace Sys2Proof.Machine

/-- The SRB accepts aligned 32-bit accesses and no others (20_memory.md R82). -/
theorem accepted_iff (off size : Nat) : accepted off size = true ↔ size = 4 ∧ off % 4 = 0 := by simp [accepted]

/-- An access in the window is served at its offset while reset is released (20_memory.md R80). -/
theorem onWindow_inside {s : State} (hreset : s.host.resetHeld = false) {off : Nat} (hoff : off < 0x1000000)
    (serve : Nat → HostAction) : onWindow s (s.build.srbBase + off) serve = serve off := by
  have hoffset : windowOffset s.build (s.build.srbBase + off) = some off := by simp [windowOffset, windowSize, hoff]
  simp [onWindow, hreset, hoffset]

/-- A statement that the host's part completes is one step. -/
theorem step_of_done {s t : State} {st : HostStmt} (hat : s.host.program[s.host.index]? = some st)
    (hact : stmtAction s st = .done t) : step s = .next t := by simp [step, hostAction, hat, hact]

/-- What a location reads does not depend on the host. -/
theorem loadLoc_setHost (s : State) (h : HostPort) (l : Loc) : loadLoc (State.setHost s h) l = loadLoc s l := by
  cases l with
  | reg r => cases r <;> rfl
  | coef i k => rfl
  | buf b i => rfl
  | reserved => rfl

section
variable {s t : State} {off size : Nat} {v : Word}

/-- A write in the window is one step when the bus completes it. -/
theorem step_write (hat : AtStatement s (.write (s.build.srbBase + off) size v)) (hoff : off < 0x1000000)
    (hbus : busWrite (State.nextStmt s) off size v = .done t) : step s = .next t :=
  step_of_done hat.1 ((onWindow_inside hat.2 hoff _).trans hbus)

/-- A read in the window is one step when the bus completes it. -/
theorem step_read (hat : AtStatement s (.read (s.build.srbBase + off) size)) (hoff : off < 0x1000000)
    (hbus : busRead (State.nextStmt s) off size = .done t) : step s = .next t :=
  step_of_done hat.1 ((onWindow_inside hat.2 hoff _).trans hbus)

/-- An accepted write to a location other than CMD stores (20_memory.md R88). -/
theorem busWrite_accepted (hacc : accepted off size = true) (hcmd : off ≠ 0x018) :
    busWrite s off size v = .done (storeLoc (State.answerWrite s false) (locate off) v) := by
  rw [busWrite, if_pos hacc]
  exact if_neg hcmd

/-- An accepted read hands the word of its location to the host (20_memory.md R89). -/
theorem busRead_accepted (hacc : accepted off size = true) :
    busRead s off size = .done (State.answerRead s (loadLoc s (locate off)) false) := if_pos hacc

/-- Any other write only records the bus error (60_exceptions.md R273). -/
theorem busWrite_busError (hacc : ¬accepted off size = true) :
    busWrite s off size v = .done (State.answerWrite (State.recordBusError s) true) := if_neg hacc

/-- Any other read records the bus error and answers 0 (20_memory.md R82; 60_exceptions.md R273). -/
theorem busRead_busError (hacc : ¬accepted off size = true) :
    busRead s off size = .done (State.answerRead (State.recordBusError s) 0 true) := if_neg hacc

end

end Sys2Proof.Machine

open Sys2Proof Sys2Proof.Machine

/-- Settles O8: the access is accepted and served at its offset. -/
theorem stepServesHostAccesses : Obligations.StepServesHostAccesses := by
  intro s off hoff haligned
  have hacc : accepted off 4 = true := (accepted_iff off 4).2 ⟨rfl, haligned⟩
  refine ⟨fun v hcmd hat => step_write hat hoff (busWrite_accepted hacc hcmd), fun hat => ?_⟩
  rw [step_read hat hoff (busRead_accepted hacc), State.nextStmt, loadLoc_setHost]
  rfl

/-- Settles O9: an access that is not accepted ends at the recorded bus error, and no location is looked up. -/
theorem busErrorOnlyRecords : Obligations.BusErrorOnlyRecords := by
  intro s off size hoff hbad
  have hacc : ¬accepted off size = true := by rw [accepted_iff]; omega
  refine ⟨fun v hat => ?_, fun hat => ?_⟩
  · rw [step_write hat hoff (busWrite_busError hacc), recordBusError_eq]
    rfl
  · rw [step_read hat hoff (busRead_busError hacc), recordBusError_eq]
    rfl
end

section
/-! The region map and the named offsets are inverse to each other on named locations, and what is not named is
reserved (20_memory.md R81, R84; 30_encoding.md R122). -/

namespace Sys2Proof.Machine

/-- The locations that some offset names: an index lies in its buffer's 256 KiB block (20_memory.md R81). -/
def Loc.Named : Loc → Prop
  | .reg _ => True
  | .coef _ _ => True
  | .buf _ i => i < 0x10000
  | .reserved => False

/-- The locations without a word in a build: reserved, or an index past the buffer's length (20_memory.md R84). -/
def Loc.Absent (b : Build) : Loc → Prop
  | .reg _ => False
  | .coef _ _ => False
  | .buf f i => bufLen b f ≤ i
  | .reserved => True

/-! ### Offsets -/

theorem coefNumber_lt (k : CoefName) : coefNumber k < 5 := by cases k <;> decide

theorem regOffset_range (r : Reg) : regOffset r % 4 = 0 ∧ regOffset r ≤ 0x054 ∧ regOffset r ≠ 0x02C := by
  cases r <;> decide

theorem channelIndex_lt (c : Channel) : channelIndex c < 2 := by cases c <;> decide

theorem bufBase_le (f : Buf) : bufBase f ≤ 0x400000 := by
  cases f with
  | sb c | rw c | fout c => cases c <;> decide
  | resp => decide

/-- The offset of every location is a multiple of 4 (20_memory.md R82). -/
theorem locOffset_aligned (l : Loc) : locOffset l % 4 = 0 := by
  cases l with
  | reg r => exact (regOffset_range r).1
  | coef i k => simp only [locOffset]; omega
  | buf f i =>
    obtain ⟨-, hblock⟩ := bufAt_bufBase f
    simp only [locOffset]; omega
  | reserved => rfl

/-- Every named location lies in the window (20_memory.md R80). -/
theorem Loc.Named.locOffset_lt {l : Loc} (h : Loc.Named l) : locOffset l < 0x1000000 := by
  cases l with
  | reg r =>
    obtain ⟨-, hle, -⟩ := regOffset_range r
    exact hle.trans_lt (by decide)
  | coef i k =>
    have hk := coefNumber_lt k
    simp only [locOffset]; omega
  | buf f i =>
    have hbase := bufBase_le f
    have hi : i < 0x10000 := h
    simp only [locOffset]; omega
  | reserved => exact h.elim

/-! ### From a location to its offset and back -/

/-- Word `coefNumber k` of section `i` of the store is coefficient `k` (20_memory.md R81). -/
theorem coefAt_coefNumber (i : Fin 9) (k : CoefName) : coefAt (8 * i.val + coefNumber k) = .coef i k := by
  revert i
  cases k <;> decide

/-- The offset of a named location names it (30_encoding.md R122). -/
theorem Loc.Named.locate_locOffset {l : Loc} (h : Loc.Named l) : locate (locOffset l) = l := by
  cases l with
  | reg r => exact locate_reg r
  | coef i k =>
    have hk := coefNumber_lt k
    have hword : (locOffset (.coef i k) - 0x200) / 4 = 8 * i.val + coefNumber k := by simp only [locOffset]; omega
    rw [locate, if_neg (by simp only [locOffset]; omega), if_pos (by simp only [locOffset]; omega), hword,
      coefAt_coefNumber]
  | buf f i =>
    obtain ⟨hat, hmod⟩ := bufAt_bufBase f
    have hi : i < 0x10000 := h
    have hbase : 0x100000 ≤ bufBase f := by cases f <;> simp only [bufBase] <;> omega
    have hblock : locOffset (.buf f i) / 0x40000 = bufBase f / 0x40000 := by simp only [locOffset]; omega
    have hindex : locOffset (.buf f i) % 0x40000 / 4 = i := by simp only [locOffset]; omega
    have hoff : 0x100000 ≤ locOffset (.buf f i) := Nat.le_add_right_of_le hbase
    rw [locate, if_neg (by omega), if_neg (by omega), hblock, hat, hindex]
  | reserved => exact h.elim

theorem regAt_some {off : Nat} {r : Reg} (h : regAt off = some r) : off = regOffset r := by
  unfold regAt at h
  split at h <;> cases h <;> rfl

theorem bufAt_some {block : Nat} {f : Buf} (h : bufAt block = some f) : bufBase f = 0x40000 * block := by
  unfold bufAt at h
  split at h <;> cases h <;> rfl

theorem coefAt_cases (n : Nat) :
    coefAt n = .reserved ∨ ∃ i k, coefAt n = .coef i k ∧ n = 8 * i.val + coefNumber k := by
  unfold coefAt
  split
  · next hi =>
    split
    case h_6 => exact .inl rfl
    all_goals exact .inr ⟨_, _, rfl, by simp only [coefNumber]; omega⟩
  · exact .inl rfl

/-- An aligned offset is reserved, or it is the offset of the location that it names. -/
theorem locate_cases {off : Nat} (h : off % 4 = 0) :
    locate off = .reserved ∨ Loc.Named (locate off) ∧ locOffset (locate off) = off := by
  unfold locate
  split
  · cases hr : regAt off with
    | none => exact .inl rfl
    | some r => exact .inr ⟨trivial, (regAt_some hr).symm⟩
  · split
    · rcases coefAt_cases ((off - 0x200) / 4) with hc | ⟨i, k, hc, hn⟩ <;> rw [hc]
      · exact .inl rfl
      · exact .inr ⟨trivial, by simp only [locOffset]; omega⟩
    · cases hb : bufAt (off / 0x40000) with
      | none => exact .inl rfl
      | some f =>
        have hbase := bufAt_some hb
        exact .inr ⟨by simp only [Loc.Named]; omega, by simp only [locOffset]; omega⟩

/-- What the offset of a location names, with the offset written out. -/
theorem locate_eq {off : Nat} {l : Loc} (h : Loc.Named l) (hoff : off = locOffset l) : locate off = l :=
  hoff ▸ h.locate_locOffset

/-- Every word of every buffer of a legal build is named. -/
theorem named_buf {b : Build} (h : Build.legal b = true) {f : Buf} {i : Nat} (hi : i < bufLen b f) :
    Loc.Named (.buf f i) := hi.trans_le (bufLen_le h f)

/-- A location that is not reserved, with its index within the buffer's length, is named. -/
theorem named_of_indexed {b : Build} (h : Build.legal b = true) {l : Loc} (hl : l ≠ .reserved)
    (hindex : ∀ f i, l = .buf f i → i < bufLen b f) : Loc.Named l := by
  cases l with
  | reg r => trivial
  | coef i k => trivial
  | buf f i => exact named_buf h (hindex f i rfl)
  | reserved => exact absurd rfl hl

/-! ### Absent words -/

theorem Loc.Absent.loadLoc {s : State} {l : Loc} (h : Loc.Absent s.build l) : loadLoc s l = 0 := by
  cases l with
  | reg r => exact h.elim
  | coef i k => exact h.elim
  | buf f i => exact if_neg (Nat.not_lt.2 h)
  | reserved => rfl

theorem Loc.Absent.storeLoc {s : State} {l : Loc} (h : Loc.Absent s.build l) (v : Word) : storeLoc s l v = s := by
  cases l with
  | reg r => exact h.elim
  | coef i k => exact h.elim
  | buf f i =>
    cases f with
    | sb c => exact if_neg (Nat.not_lt.2 h)
    | rw c | fout c | resp => rfl
  | reserved => rfl

end Sys2Proof.Machine

open Sys2Proof Sys2Proof.Machine

/-- Settles O46: of the offsets that name a location, the ranges hold only those of indices past a buffer's length. -/
theorem reservedOffsetsReadZero : Obligations.ReservedOffsetsReadZero := by
  intro s off v hoff haligned hranges
  have hcases := locate_cases haligned
  have habsent : Loc.Absent s.build (locate off) := by
    generalize locate off = l at hcases ⊢
    rcases hcases with rfl | ⟨hnamed, rfl⟩
    · trivial
    cases l with
    | reg r =>
      obtain ⟨-, hle, hne⟩ := regOffset_range r
      simp only [locOffset] at hranges
      omega
    | coef i k =>
      have hk := coefNumber_lt k
      simp only [locOffset] at hranges
      omega
    | buf f i =>
      have hi : i < 0x10000 := hnamed
      rw [Loc.Absent]
      cases f with
      | sb c | rw c | fout c =>
        have hc := channelIndex_lt c
        simp only [locOffset, bufBase] at hranges
        simp only [bufLen]
        omega
      | resp =>
        simp only [locOffset, bufBase] at hranges
        simp only [bufLen]
        omega
    | reserved => trivial
  exact ⟨(accepted_iff off 4).2 ⟨rfl, haligned⟩, habsent.loadLoc, habsent.storeLoc v⟩

/-- Settles O47: each offset is the offset of its location, which is named. -/
theorem locationOffsetsNameThem : Obligations.LocationOffsetsNameThem := by
  intro b hlegal
  have hbuf (f : Buf) {i : Nat} (hi : i < bufLen b f) : locate (bufBase f + 4 * i) = .buf f i :=
    (named_buf hlegal hi).locate_locOffset
  refine ⟨⟨rfl, rfl, rfl, rfl, rfl, rfl, rfl, rfl, rfl, rfl, rfl, rfl, rfl, rfl, rfl, rfl, rfl, rfl, rfl, rfl, rfl⟩,
    fun i => ?coefs, fun i hi => ⟨hbuf (.sb .c0) hi, hbuf (.sb .c1) hi, hbuf (.rw .c0) hi, hbuf (.rw .c1) hi⟩,
    fun i hi => ⟨hbuf (.fout .c0) hi, hbuf (.fout .c1) hi⟩, fun i hi => hbuf .resp hi, fun l hl hindex => ?named⟩
  case coefs =>
    refine ⟨?_, ?_, ?_, ?_, ?_⟩ <;> exact locate_eq trivial (by simp only [locOffset, coefNumber]; omega)
  case named =>
    have hnamed : Loc.Named l := named_of_indexed hlegal hl hindex
    exact ⟨hnamed.locate_locOffset, locOffset_aligned l, hnamed.locOffset_lt⟩
end

section
/-! What the host reads (20_memory.md R89), and the read-only locations (R85). -/

namespace Sys2Proof.Machine

/-- A buffer's word as the host reads it is the buffer's word (20_memory.md R89). -/
theorem readBuf_getElem? {s : State} {f : Buf} {i : Nat} (hi : i < bufLen s.build f) :
    (readBuf s f)[i]? = some (loadLoc s (.buf f i)) := by
  simp [readBuf, readWords, loadLoc, hi]

/-- CFG of a legal build: no field overflows (10_state.md R36). -/
theorem cfgWord_legal {b : Build} (h : Build.legal b = true) :
    Build.cfgWord b = BitVec.ofNat 32 (0x2000 + 0x100 * b.j + 0x10 * b.fqCap + b.k) := by
  obtain ⟨⟨-, hk⟩, ⟨-, hcap⟩, hj, -⟩ := legal_bounds h
  rw [Build.cfgWord, Nat.mod_eq_of_lt (by omega), Nat.mod_eq_of_lt (by omega), Nat.mod_eq_of_lt (by omega)]
  congr 1
  omega

/-- A field of a word as a number. -/
theorem toNat_extractLsb'_eq_div (v : Word) (i n : Nat) : (v.extractLsb' i n).toNat = v.toNat / 2 ^ i % 2 ^ n := by
  rw [BitVec.extractLsb'_toNat, Nat.shiftRight_eq_div_pow]

/-- A bit of a word is the Boolean whose number stands there. -/
theorem getLsbD_eq_of_field {v : Word} {i : Nat} {x : Bool} (h : v.toNat / 2 ^ i % 2 = x.toNat) : v.getLsbD i = x := by
  rw [BitVec.getLsbD, Nat.testBit_eq_decide_div_mod_eq, h]
  cases x <;> rfl

/-- FQSTAT as a number: queue lengths in bytes 0 and 1, freshness in bits 16 and 17 (10_state.md R51). -/
theorem fqstatWord_toNat (s : State) : (fqstatWord s).toNat =
    s.ch0.fq.length % 0x100 + 0x100 * (s.ch1.fq.length % 0x100) + 0x10000 * s.ch0.fresh.toNat
      + 0x20000 * s.ch1.fresh.toNat := by
  have h0 := s.ch0.fresh.toNat_le
  have h1 := s.ch1.fresh.toNat_le
  rw [fqstatWord, BitVec.toNat_ofNat, Nat.mod_eq_of_lt (by omega)]

/-- DROPCNT as a number: channel 0 in the low half, channel 1 in the high half (10_state.md R52). -/
theorem dropcntWord_toNat (s : State) : (dropcntWord s).toNat = s.ch0.drop.toNat + 0x10000 * s.ch1.drop.toNat := by
  have h0 := s.ch0.drop.isLt
  have h1 := s.ch1.drop.isLt
  rw [dropcntWord, BitVec.toNat_ofNat, Nat.mod_eq_of_lt (by omega)]

theorem dropcntWord_low (s : State) : (dropcntWord s).extractLsb' 0 16 = s.ch0.drop := by
  have h0 := s.ch0.drop.isLt
  apply BitVec.eq_of_toNat_eq
  rw [toNat_extractLsb'_eq_div, dropcntWord_toNat]
  omega

theorem dropcntWord_high (s : State) : (dropcntWord s).extractLsb' 16 16 = s.ch1.drop := by
  have h0 := s.ch0.drop.isLt
  have h1 := s.ch1.drop.isLt
  apply BitVec.eq_of_toNat_eq
  rw [toNat_extractLsb'_eq_div, dropcntWord_toNat]
  omega

/-- The queue lengths fit their bytes, as `FQ_CAP` is at most 15 (10_state.md R51, R59). -/
theorem fqstatWord_fields {s : State} (h : Inv s) :
    ((fqstatWord s).extractLsb' 0 8).toNat = s.ch0.fq.length ∧
    ((fqstatWord s).extractLsb' 8 8).toNat = s.ch1.fq.length ∧
    (fqstatWord s).getLsbD 16 = s.ch0.fresh ∧ (fqstatWord s).getLsbD 17 = s.ch1.fresh ∧
    ∀ b, 18 ≤ b → (fqstatWord s).getLsbD b = false := by
  obtain ⟨-, ⟨-, hcap⟩, -⟩ := legal_bounds h.build
  obtain ⟨hlen0, -⟩ := h.ch0
  obtain ⟨hlen1, -⟩ := h.ch1
  have hword := fqstatWord_toNat s
  have h0 := s.ch0.fresh.toNat_le
  have h1 := s.ch1.fresh.toNat_le
  refine ⟨?_, ?_, ?_, ?_, fun b hb => ?_⟩
  · rw [toNat_extractLsb'_eq_div]; omega
  · rw [toNat_extractLsb'_eq_div]; omega
  · exact getLsbD_eq_of_field (by omega)
  · exact getLsbD_eq_of_field (by omega)
  · have hlt : (fqstatWord s).toNat < 2 ^ 18 := by omega
    exact Nat.testBit_lt_two_pow (hlt.trans_le (Nat.pow_le_pow_right (by decide) hb))

end Sys2Proof.Machine

open Sys2Proof Sys2Proof.Machine

/-- Settles O48: the registers that are not stored have their fields at the places that the table gives them. -/
theorem hostReadsReturnTheState : Obligations.HostReadsReturnTheState := by
  intro s
  exact ⟨rfl, rfl, cfgWord_legal, rfl, rfl, BitVec.toNat_setWidth_of_le (by decide), rfl, rfl, rfl, rfl, rfl, rfl,
    rfl, rfl, rfl, rfl, rfl, rfl, fqstatWord_fields, dropcntWord_low s, dropcntWord_high s,
    fun i => ⟨rfl, rfl, rfl, rfl, rfl⟩, fun f i => readBuf_getElem?⟩

/-- Settles O45, register by register; the offset of every location is aligned, so no access there is a bus error. -/
theorem readOnlyLocationsIgnoreWrites : Obligations.ReadOnlyLocationsIgnoreWrites := by
  intro s v
  refine ⟨fun r hr => ?_, fun i k => rfl, fun c i => ⟨rfl, rfl⟩, fun i => rfl,
    fun l => (accepted_iff _ 4).2 ⟨rfl, locOffset_aligned l⟩, rfl⟩
  fin_cases hr <;> rfl
end

section
/-! The fields of a command word: the four fields make up the word, and the encoder puts a command's operands into them
(30_encoding.md R111, R112). -/

namespace Sys2Proof
open Sys2Proof.Machine

/-! ### A word and its fields -/

theorem fieldOpc_eq_mod (v : Word) : fieldOpc v = v.toNat % 0x100 :=
  (toNat_extractLsb'_eq_div v 0 8).trans (congrArg (· % 0x100) (Nat.div_one _))

theorem fieldCh_eq_div (v : Word) : fieldCh v = v.toNat / 0x100 % 4 := toNat_extractLsb'_eq_div v 8 2

theorem fieldRsv_eq_div (v : Word) : fieldRsv v = v.toNat / 0x400 % 0x40 := toNat_extractLsb'_eq_div v 10 6

theorem fieldImm_eq_div (v : Word) : fieldImm v = v.toNat / 0x10000 % 0x10000 := toNat_extractLsb'_eq_div v 16 16

theorem fieldCh_lt (v : Word) : fieldCh v < 4 := (v.extractLsb' 8 2).isLt

theorem fieldImm_lt (v : Word) : fieldImm v < 0x10000 := (v.extractLsb' 16 16).isLt

/-- The four fields cover every bit of the word (30_encoding.md R111). -/
theorem toNat_eq_fields (v : Word) :
    v.toNat = fieldImm v * 0x10000 + fieldRsv v * 0x400 + fieldCh v * 0x100 + fieldOpc v := by
  have hv := v.isLt
  rw [fieldImm_eq_div, fieldRsv_eq_div, fieldCh_eq_div, fieldOpc_eq_mod]
  omega

/-! ### The fields of an instruction -/

/-- The assembler's operand check is a bound on the two operand fields (30_encoding.md R120). -/
theorem wellFormed_iff (i : Instr) : i.wellFormed = true ↔ i.chField < 4 ∧ i.immField < 0x10000 := by
  cases i <;> simp [Instr.wellFormed, Instr.chField, Instr.immField, chFits, immFits, Nat.lt_succ_iff]

/-- A command without a channel has 0 in its CH field (30_encoding.md R116). -/
theorem chField_eq_zero {i : Instr} (h : usesCh i.opcode = false) : i.chField = 0 := by
  cases i with
  | ingest | produce | pop | clear => cases h
  | _ => rfl

/-- A command without an immediate has 0 in its IMM field (30_encoding.md R116). -/
theorem immField_eq_zero {i : Instr} (h : usesImm i.opcode = false) : i.immField = 0 := by
  cases i with
  | designLowcut | designHighcut | ingest => cases h
  | _ => rfl

theorem opcode_mem (i : Instr) : i.opcode ∈ assignedOpcodes := by cases i <;> simp [Instr.opcode, assignedOpcodes]

theorem encode_toNat {i : Instr} (h : i.wellFormed = true) :
    (encode i).toNat = i.immField * 0x10000 + i.chField * 0x100 + i.opcode := by
  obtain ⟨hch, himm⟩ := (wellFormed_iff i).1 h
  have hopc := Laws.EncodesItsRow.opcode_lt i
  rw [encode, BitVec.toNat_ofNat, Nat.mod_eq_of_lt (by omega)]

/-- The word of a well-formed instruction holds each operand in its field and 0 in RSV (30_encoding.md R111, R114). -/
theorem encode_fields {i : Instr} (h : i.wellFormed = true) :
    fieldOpc (encode i) = i.opcode ∧ fieldCh (encode i) = i.chField ∧ fieldRsv (encode i) = 0 ∧
      fieldImm (encode i) = i.immField := by
  obtain ⟨hch, himm⟩ := (wellFormed_iff i).1 h
  have hopc := Laws.EncodesItsRow.opcode_lt i
  rw [fieldOpc_eq_mod, fieldCh_eq_div, fieldRsv_eq_div, fieldImm_eq_div, encode_toNat h]
  omega

/-! ### The checks of the decoder -/

theorem usesCh_iff (opc : Nat) : usesCh opc = true ↔ opc ∈ [0x30, 0x31, 0x32, 0x33] := by
  simp only [usesCh, Bool.and_eq_true, decide_eq_true_eq, List.mem_cons, List.not_mem_nil, or_false]
  omega

theorem usesImm_iff (opc : Nat) : usesImm opc = true ↔ opc ∈ [0x11, 0x13, 0x30] := by
  simp [usesImm, or_assoc]

/-- Some must-be-zero bit is 1: of RSV, of CH without a channel, or of IMM without an immediate (30_encoding.md R116). -/
theorem reservedBitSet_iff (v : Word) : reservedBitSet v = true ↔
    fieldRsv v ≠ 0 ∨ (usesCh (fieldOpc v) = false ∧ fieldCh v ≠ 0) ∨
      (usesImm (fieldOpc v) = false ∧ fieldImm v ≠ 0) := by
  simp [reservedBitSet, or_assoc]

/-- A row of the opcode map has its opcode, and takes from the word the operands that the opcode uses
(30_encoding.md R113). -/
theorem fields_of_opmap {opc ch imm : Nat} {i : Instr} (h : opmap opc ch imm = some i) :
    i.opcode = opc ∧ i.chField = (if usesCh opc then ch else 0) ∧ i.immField = (if usesImm opc then imm else 0) := by
  unfold opmap at h
  split at h <;> cases h <;> exact ⟨rfl, rfl, rfl⟩

/-- The opcode map gives an instruction back from its fields (30_encoding.md R113). -/
theorem opmap_fields (i : Instr) : opmap i.opcode i.chField i.immField = some i := by cases i <;> rfl

theorem opmap_of_unassigned {opc : Nat} (h : opc ∉ assignedOpcodes) (ch imm : Nat) : opmap opc ch imm = none := by
  refine Option.eq_none_iff_forall_ne_some.2 fun i hi => h ?_
  obtain ⟨rfl, -, -⟩ := fields_of_opmap hi
  exact opcode_mem i

theorem opmap_of_assigned {opc : Nat} (h : opc ∈ assignedOpcodes) (ch imm : Nat) : ∃ i, opmap opc ch imm = some i := by
  fin_cases h <;> exact ⟨_, rfl⟩

/-! ### The outcomes of the decoder -/

theorem decode_of_unassigned {v : Word} (h : fieldOpc v ∉ assignedOpcodes) : decode v = .error .illegalOpcode := by
  rw [decode, opmap_of_unassigned h]

theorem decode_of_reservedBit {v : Word} (hopc : fieldOpc v ∈ assignedOpcodes) (hbit : reservedBitSet v = true) :
    decode v = .error .reservedField := by
  obtain ⟨i, hi⟩ := opmap_of_assigned hopc (fieldCh v) (fieldImm v)
  simp [decode, hi, hbit]

/-- A word decodes to the row of its opcode when no must-be-zero bit is 1 (30_encoding.md R113, R116). -/
theorem decode_eq_ok_iff (v : Word) (i : Instr) : decode v = .ok i ↔
    opmap (fieldOpc v) (fieldCh v) (fieldImm v) = some i ∧ reservedBitSet v = false := by
  unfold decode
  split
  · next hmap => simp [hmap]
  · next j hmap => cases hbit : reservedBitSet v <;> simp [hmap]

/-- The fields of the instruction that a word decodes to are the word's, and RSV is 0: a field that the opcode does not
use is 0 in both (30_encoding.md R116). -/
theorem fields_of_decode {v : Word} {i : Instr} (h : decode v = .ok i) :
    i.opcode = fieldOpc v ∧ i.chField = fieldCh v ∧ fieldRsv v = 0 ∧ i.immField = fieldImm v := by
  obtain ⟨hmap, hbit⟩ := (decode_eq_ok_iff v i).1 h
  obtain ⟨hopc, hch, himm⟩ := fields_of_opmap hmap
  have hzero := mt (reservedBitSet_iff v).2 (by simp [hbit])
  push Not at hzero
  obtain ⟨hrsv, hch0, himm0⟩ := hzero
  refine ⟨hopc, hch.trans ?_, hrsv, himm.trans ?_⟩
  · split
    · rfl
    · next hno => exact (hch0 (by simpa using hno)).symm
  · split
    · rfl
    · next hno => exact (himm0 (by simpa using hno)).symm

end Sys2Proof

namespace Sys2Proof.Machine

/-! ### Rejections -/

/-- A word that does not decode is rejected with the decoder's code (40_command_execution.md R141, R142). -/
theorem issue_of_error {v : Word} {e : ErrCode} (h : decode v = .error e) (s : State) :
    issue s v = .done { s with status := s.status ||| 0x01, errcode := e.code } := by
  rw [issue, h, ← reject_eq]

/-- Every channel command checks its channel before anything else (40_command_execution.md R141, R274). -/
theorem exec_of_badChannel {i : Instr} (huses : usesCh i.opcode = true) (hch : 2 ≤ i.chField) (s : State) :
    exec i s = .next (State.reject s .badChannel) := by
  cases i with
  | ingest ch | produce ch | pop ch | clear ch => exact congrArg _ (withChannel_bad s ch _ hch)
  | _ => cases huses

end Sys2Proof.Machine

open Sys2Proof Sys2Proof.Machine

/-- Settles O1: the fields of the word are those of the instruction, so the opcode map gives it back, and the fields that
its opcode does not use are 0. -/
theorem decodeOfEncode : Obligations.DecodeOfEncode := by
  intro i hwf
  obtain ⟨hopc, hch, hrsv, himm⟩ := encode_fields hwf
  refine (decode_eq_ok_iff _ i).2 ⟨by rw [hopc, hch, himm, opmap_fields], ?_⟩
  rw [← Bool.not_eq_true, reservedBitSet_iff, hopc, hch, hrsv, himm]
  rintro (h | ⟨hno, h⟩ | ⟨hno, h⟩)
  · exact h rfl
  · exact h (chField_eq_zero hno)
  · exact h (immField_eq_zero hno)

/-- Settles O2: the instruction has the fields of the word, which make up the whole word. -/
theorem encodeOfDecode : Obligations.EncodeOfDecode := by
  intro v i h
  obtain ⟨hopc, hch, hrsv, himm⟩ := fields_of_decode h
  have hwf : i.wellFormed = true := (wellFormed_iff i).2 ⟨hch ▸ fieldCh_lt v, himm ▸ fieldImm_lt v⟩
  refine ⟨hwf, BitVec.eq_of_toNat_eq ?_⟩
  rw [encode_toNat hwf, toNat_eq_fields v, hopc, hch, hrsv, himm, Nat.zero_mul, Nat.add_zero]

/-- Settles O5: the map has the opcode, and the must-be-zero bits are those that the decoder checks. -/
theorem reservedFieldIsRejected : Obligations.ReservedFieldIsRejected := by
  intro s v hopc hbits
  simp only [← usesCh_iff, ← usesImm_iff, Bool.not_eq_true] at hbits
  exact issue_of_error (decode_of_reservedBit hopc ((reservedBitSet_iff v).2 hbits)) s

/-- Settles O6: the word decodes, and the command it decodes to checks its channel first. -/
theorem badChannelIsRejected : Obligations.BadChannelIsRejected := by
  intro s v hopc hrsv himm hch
  have huses : usesCh (fieldOpc v) = true := (usesCh_iff _).2 hopc
  have hbit : reservedBitSet v = false := by
    rw [← Bool.not_eq_true, reservedBitSet_iff, huses]
    rintro (h | ⟨hno, -⟩ | ⟨hno, h⟩)
    · exact h hrsv
    · cases hno
    · exact h (himm fun heq => by rw [heq] at hno; cases hno)
  have hassigned : fieldOpc v ∈ assignedOpcodes :=
    (by decide : [0x30, 0x31, 0x32, 0x33] ⊆ assignedOpcodes) hopc
  obtain ⟨i, hi⟩ := opmap_of_assigned hassigned (fieldCh v) (fieldImm v)
  have hdec : decode v = .ok i := (decode_eq_ok_iff v i).2 ⟨hi, hbit⟩
  obtain ⟨hiopc, hich, -, -⟩ := fields_of_decode hdec
  refine ⟨i, hdec, ?_⟩
  rw [exec_of_badChannel (hiopc ▸ huses) (hich ▸ hch), reject_eq]
  rfl

/-- Settles O3: each word is the encoding of its command. -/
theorem exampleWordsDecode : Obligations.ExampleWordsDecode :=
  ⟨decodeOfEncode .nop rfl, decodeOfEncode .reset rfl, decodeOfEncode .chainReset rfl,
    decodeOfEncode (.designLowcut 2) rfl, decodeOfEncode .designPeak rfl, decodeOfEncode (.designHighcut 1) rfl,
    decodeOfEncode .magAt rfl, decodeOfEncode .sweep rfl, decodeOfEncode (.ingest 1 512) rfl,
    decodeOfEncode (.produce 0) rfl, decodeOfEncode (.pop 1) rfl, decodeOfEncode (.clear 0) rfl⟩

/-- Settles O4: the map has no row for the opcode, and the decoder's error is the whole effect. -/
theorem illegalOpcodeIsRejected : Obligations.IllegalOpcodeIsRejected := by
  intro s v hopc
  exact issue_of_error (decode_of_unassigned hopc) s

/-- Settles O10: the host's part completes each statement, by the two cases of a branch. -/
theorem hostBranchesMoveOnlyTheHost : Obligations.HostBranchesMoveOnlyTheHost := by
  intro s k
  refine ⟨fun hat => step_of_done hat.1 ?_, fun hat => step_of_done hat.1 ?_, fun hat => step_of_done hat.1 rfl,
    fun hat => step_of_done hat.1 rfl⟩ <;> rw [stmtAction]
  · by_cases hzero : s.host.lastRead = 0
    · rw [if_pos hzero, if_neg (not_not_intro hzero)]; rfl
    · rw [if_neg hzero, if_pos hzero]; rfl
  · by_cases hzero : s.host.lastRead = 0
    · rw [if_pos hzero, if_pos hzero]; rfl
    · rw [if_neg hzero, if_neg hzero]; rfl
end

section
/-! A write to CMD as one step (40_command_execution.md R140, R141), and the effects of RESET, of the reset input and of
NOP (R151, R152; 70_reset_and_hazards.md R300). -/

namespace Sys2Proof.Machine

/-! ### The issue of a command -/

/-- A word that decodes runs its command (40_command_execution.md R141). -/
theorem issue_of_ok {v : Word} {i : Instr} (h : decode v = .ok i) (s : State) : issue s v = .run i s := by
  rw [issue, h]

/-- A write to CMD issues the written word (10_state.md R41). -/
theorem busWrite_cmd (s : State) (v : Word) : busWrite s 0x018 4 v = issue (State.answerWrite s false) v := by
  rw [busWrite, if_pos ((accepted_iff 0x018 4).2 ⟨rfl, rfl⟩)]
  exact if_pos rfl

/-- The host that writes to CMD issues its word, with the host itself at its next statement (10_state.md R41). -/
theorem hostAction_of_cmdWrite {s : State} {v : Word}
    (hat : AtStatement s (.write (s.build.srbBase + 0x018) 4 v)) : hostAction s = issue (issued s) v := by
  obtain ⟨hstmt, hreset⟩ := hat
  rw [hostAction, hstmt]
  exact (onWindow_inside hreset (by decide) _).trans (busWrite_cmd (State.nextStmt s) v)

theorem step_of_hostDone {s t : State} (h : hostAction s = .done t) : step s = .next t := by rw [step, h]

theorem step_of_run {s t : State} {i : Instr} (h : hostAction s = .run i t) : step s = exec i t := by rw [step, h]

/-! ### The effects of the control commands and of the reset input -/

theorem execNop_eq (s : State) : execNop s = .next { s with result := 0 } := rfl

theorem resetBlock_eq (s : State) : State.resetBlock s = { State.resetOf s.build with host := s.host } := rfl

/-- The asserted reset input resets the block and leaves the host's program where it is (70_reset_and_hazards.md R300). -/
theorem assertReset_eq (s : State) : State.assertReset s =
    { State.resetOf s.build with host := { s.host with resetHeld := true } } := by
  rw [State.assertReset, resetBlock_eq]
  rfl

end Sys2Proof.Machine

open Sys2Proof Sys2Proof.Machine

/-- Settles O7: the host issues the word, and the two outcomes of the decoder are the two cases. -/
theorem stepRunsTheDecodedCommand : Obligations.StepRunsTheDecodedCommand := by
  intro s v hat
  have hact := hostAction_of_cmdWrite hat
  exact ⟨fun i hdec => step_of_run (hact.trans (issue_of_ok hdec _)),
    fun e hdec => step_of_hostDone (hact.trans (issue_of_error hdec _))⟩

/-- Settles O16: RESET and the asserted reset input both end at the state of `resetBlock`. -/
theorem resetSourcesResetTheBlock : Obligations.ResetSourcesResetTheBlock := by
  intro s
  refine ⟨congrArg Host.Outcome.next (resetBlock_eq s), fun hat => ?_, fun hat => step_of_done hat rfl⟩
  rw [step_of_done hat rfl, assertReset_eq]
  rfl

/-- Settles O17: a word of opcode 0 other than 0 has a bit at 1 in a field that NOP does not use. -/
theorem nopClearsResult : Obligations.NopClearsResult := by
  refine ⟨execNop_eq, decodeOfEncode .nop rfl, fun s v hopc hv => ?_⟩
  refine reservedFieldIsRejected s v (by rw [hopc]; decide) ?_
  have hsum := toNat_eq_fields v
  have hne : v.toNat ≠ 0 := fun h0 => hv (BitVec.eq_of_toNat_eq h0)
  have hno : fieldOpc v ∉ [0x30, 0x31, 0x32, 0x33] ∧ fieldOpc v ∉ [0x11, 0x13, 0x30] := by rw [hopc]; decide
  simp only [hno, not_false_eq_true, true_and]
  omega
end

section
/-! What every numerics configuration gives exactly, on all operands (40_command_execution.md R146, R147, R150). -/

namespace Sys2Proof.Machine

/-! ### One zero for both: the machine's tests see values only -/

theorem f32Mag_sameZero (v : Word) : f32Mag (sameZero v) = f32Mag v := by
  unfold sameZero
  split
  · next h => rw [h]; decide
  · rfl

theorem valUnits_sameZero (v : Word) : valUnits (sameZero v) = valUnits v := by
  unfold sameZero
  split
  · next h => rw [h]; decide
  · rfl

theorem sameZero_sameZero (v : Word) : sameZero (sameZero v) = sameZero v := by
  by_cases h : v = 0x80000000
  · rw [h]; decide
  · have hself : sameZero v = v := if_neg h
    rw [hself, hself]

theorem coefs_sameZero_sameZero (c : Coefs) : Coefs.sameZero (Coefs.sameZero c) = Coefs.sameZero c := by
  simp only [Coefs.sameZero, sameZero_sameZero]

theorem circleOrder_sameZero (f fs : Word) : circleOrder (sameZero f) fs = circleOrder f fs := by
  rw [circleOrder, valUnits_sameZero, circleOrder]

theorem sectionHasPole_sameZero (f fs : Word) (c : Coefs) :
    sectionHasPole f fs (Coefs.sameZero c) = sectionHasPole f fs c := by
  simp only [sectionHasPole, Coefs.sameZero, valUnits_sameZero]

theorem sectionHasZero_sameZero (f fs : Word) (c : Coefs) :
    sectionHasZero f fs (Coefs.sameZero c) = sectionHasZero f fs c := by
  simp only [sectionHasZero, Coefs.sameZero, valUnits_sameZero]

theorem nxPk_sameZero (nx : NxName) (fc g q fs : Word) : nxPk nx fc (sameZero g) q fs = nxPk nx fc g q fs := by
  rw [nxPk, sameZero_sameZero, nxPk]

theorem nxMag_sameZero (nx : NxName) (secs : List Coefs) (f fs : Word) :
    nxMag nx secs (sameZero f) fs = nxMag nx secs f fs := by
  have hpole : sectionHasPole (sameZero f) fs = sectionHasPole f fs := funext fun c => by
    rw [sectionHasPole, circleOrder_sameZero, sectionHasPole]
  have hzero : sectionHasZero (sameZero f) fs = sectionHasZero f fs := funext fun c => by
    rw [sectionHasZero, circleOrder_sameZero, sectionHasZero]
  rw [nxMag, hpole, hzero, sameZero_sameZero, nxMag]

theorem nxMag_map_sameZero (nx : NxName) (secs : List Coefs) (f fs : Word) :
    nxMag nx (secs.map Coefs.sameZero) f fs = nxMag nx secs f fs := by
  simp only [nxMag, List.any_map, List.map_map, Function.comp_def, sectionHasPole_sameZero, sectionHasZero_sameZero,
    coefs_sameZero_sameZero]

theorem windowedSilence_map_sameZero (x : List Word) (win : Nat) :
    windowedSilence (x.map sameZero) win = windowedSilence x win := by
  have hmag : ∀ n, f32Mag ((x.map sameZero).getD n 0) = f32Mag (x.getD n 0) := fun n => by
    rw [← sameZero_zero, List.getD_map, f32Mag_sameZero, sameZero_zero]
  simp only [windowedSilence, List.length_map, hmag]

theorem binZeroOverflows_map_sameZero (x : List Word) (win k : Nat) :
    binZeroOverflows (x.map sameZero) win k = binZeroOverflows x win k := by
  simp only [binZeroOverflows, List.length_map, List.map_map, Function.comp_def, valUnits_sameZero]

theorem nxBinMag_map_sameZero (nx : NxName) (x : List Word) (win k : Nat) :
    nxBinMag nx (x.map sameZero) win k = nxBinMag nx x win k := by
  simp only [nxBinMag, windowedSilence_map_sameZero, binZeroOverflows_map_sameZero, List.map_map, Function.comp_def,
    sameZero_sameZero]

/-! ### Magnitudes -/

/-- A section with a pole makes the magnitude `QNAN` (42_magnitude_response.md R202). -/
theorem nxMag_of_pole {secs : List Coefs} {f fs : Word} (h : ∃ c ∈ secs, sectionHasPole f fs c = true) (nx : NxName) :
    nxMag nx secs f fs = qnan := if_pos (List.any_eq_true.2 h)

/-- Without a pole the magnitude is `+0`, positive or `+Inf`, and `+0` where a section has a zero
(40_command_execution.md R146). -/
theorem nxMag_of_noPole {secs : List Coefs} {f fs : Word} (h : ∀ c ∈ secs, sectionHasPole f fs c = false)
    (nx : NxName) : (nxMag nx secs f fs).toNat ≤ 0x7F800000 ∧
      ((∃ c ∈ secs, sectionHasZero f fs c = true) → nxMag nx secs f fs = 0) := by
  have hnone : secs.any (sectionHasPole f fs) = false := by simpa using h
  rw [nxMag, hnone, if_neg Bool.false_ne_true]
  refine ⟨?_, fun hz => if_pos (List.any_eq_true.2 hz)⟩
  split
  · decide
  · exact asMagnitude_le _

theorem nxBinMag_le (nx : NxName) (x : List Word) (win k : Nat) : (nxBinMag nx x win k).toNat ≤ 0x7F800000 := by
  unfold nxBinMag
  split_ifs
  · decide
  · decide
  · exact asMagnitude_le _

theorem nxBinMag_of_silence {x : List Word} {win : Nat} (h : windowedSilence x win = true) (nx : NxName) (k : Nat) :
    nxBinMag nx x win k = 0 := if_pos h

/-! ### Column frequencies -/

/-- The word of a positive finite value. -/
def PositiveFinite (v : Word) : Prop := 0 < v.toNat ∧ v.toNat < 0x7F800000

theorem positiveFinite_of_sweepFreq {f : Word} (h : InRange f sweepFreqLow sweepFreqHigh) : PositiveFinite f := by
  obtain ⟨hfin, hlo, -⟩ := h
  have hlow : 0 < f32Key sweepFreqLow := by decide
  exact (positive_iff f).1 ⟨hfin, (f32Lt_zero_iff f).2 ⟨isNaN_of_isFinite hfin, by omega⟩⟩

/-- A sweep over the range `[a, a]` stays at `a` (40_command_execution.md R146). -/
theorem nxColFreq_point (nx : NxName) (a : Word) (x w : Nat) : nxColFreq nx a a x w = a := by
  cases x with
  | zero => rfl
  | succ y => exact if_pos rfl

/-- A column's frequency is the greater one of the last column's and of a positive finite result (log 10). -/
theorem toNat_nxColFreq_succ {fmin fmax : Word} (hne : fmin ≠ fmax) (nx : NxName) (y w : Nat) :
    (nxColFreq nx fmin fmax (y + 1) w).toNat = max (nxColFreq nx fmin fmax y w).toNat
      (asPositive ((numericsOf nx).colFreq fmin fmax (y + 1) w)).toNat := by
  rw [nxColFreq, if_neg hne, BitVec.toNat_ofNat, Nat.mod_eq_of_lt (max_lt (BitVec.isLt _) (BitVec.isLt _))]

theorem nxColFreq_positiveFinite {fmin : Word} (h : PositiveFinite fmin) (nx : NxName) (fmax : Word) (x w : Nat) :
    PositiveFinite (nxColFreq nx fmin fmax x w) := by
  rcases eq_or_ne fmin fmax with rfl | hne
  · rwa [nxColFreq_point]
  · induction x with
    | zero => exact h
    | succ y ih =>
      obtain ⟨hpos, hlt⟩ := ih
      rw [PositiveFinite, toNat_nxColFreq_succ hne]
      exact ⟨lt_max_of_lt_left hpos, max_lt hlt (asPositive_bounds _).2⟩

theorem toNat_nxColFreq_mono (nx : NxName) (fmin fmax : Word) (w : Nat) :
    Monotone fun x => (nxColFreq nx fmin fmax x w).toNat := by
  rcases eq_or_ne fmin fmax with rfl | hne
  · simp only [nxColFreq_point]
    exact monotone_const
  · exact monotone_nat_of_le_succ fun y => by
      rw [toNat_nxColFreq_succ hne]
      exact le_max_left _ _

/-! ### Decibels -/

theorem legalDb_of_not_nan {m : Word} (hnan : isNaN m = false) (hneg : f32Neg m = false) : Ideal.LegalDb m := by
  have hmag : ¬0x7F800000 < m.toNat % 0x80000000 := of_decide_eq_false hnan
  have hsign : ¬0x80000000 ≤ m.toNat := of_decide_eq_false hneg
  unfold Ideal.LegalDb
  omega

theorem legalDb_of_positive {m : Word} (hfin : isFinite m = true) (hpos : f32Lt 0 m = true) : Ideal.LegalDb m :=
  ((positive_iff m).1 ⟨hfin, hpos⟩).2.le

theorem legalDb_one : Ideal.LegalDb f32One := by unfold Ideal.LegalDb; decide

/-- The decibels never fall (40_command_execution.md R147). -/
theorem nxDb_mono (nx : NxName) {m1 m2 : Word} (h1 : Ideal.LegalDb m1) (h2 : Ideal.LegalDb m2)
    (hle : f32Key m1 ≤ f32Key m2) : f32Key (nxDb nx m1) ≤ f32Key (nxDb nx m2) :=
  (Ideal.numericsOf_meets nx).2.asApplied.dbMono m1 m2 h1 h2 hle

theorem nxDb_of_positive_finite (nx : NxName) {m : Word} (hfin : isFinite m = true) (hpos : f32Lt 0 m = true) :
    isFinite (nxDb nx m) = true := ((Ideal.numericsOf_meets nx).2.asApplied.db m hfin hpos).1

theorem f32Key_nxDb_one (nx : NxName) : f32Key (nxDb nx f32One) = 0 := by
  rw [show nxDb nx f32One = 0 from rfl]
  decide

theorem f32Lt_key {a b : Word} (h : f32Lt a b = true) : f32Key a < f32Key b := by
  simp only [f32Lt, Bool.and_eq_true, decide_eq_true_eq] at h
  exact h.2

theorem f32Lt_of_key_le {a b : Word} (h : f32Key b ≤ f32Key a) : f32Lt a b = false := by
  rw [f32Lt, decide_eq_false (not_lt.2 h), Bool.and_false]

/-- Below 1 the decibels are not above 0 (40_command_execution.md R147). -/
theorem nxDb_below_one (nx : NxName) {m : Word} (hfin : isFinite m = true) (hpos : f32Lt 0 m = true)
    (h : f32Lt m f32One = true) : f32Lt 0 (nxDb nx m) = false := by
  have hmono := nxDb_mono nx (legalDb_of_positive hfin hpos) legalDb_one (f32Lt_key h).le
  rw [f32Key_nxDb_one] at hmono
  exact f32Lt_of_key_le hmono

/-- Above 1 the decibels are not below 0 (40_command_execution.md R147). -/
theorem nxDb_above_one (nx : NxName) {m : Word} (hfin : isFinite m = true) (hpos : f32Lt 0 m = true)
    (h : f32Lt f32One m = true) : f32Lt (nxDb nx m) 0 = false := by
  have hmono := nxDb_mono nx legalDb_one (legalDb_of_positive hfin hpos) (f32Lt_key h).le
  rw [f32Key_nxDb_one] at hmono
  exact f32Lt_of_key_le hmono

end Sys2Proof.Machine

open Sys2Proof Sys2Proof.Machine

/-- Settles O55: the guards fix the kind of each result, the running maximum fixes the order of the columns, and R147
fixes the order of the decibels. -/
theorem numericsExactClauses : Obligations.NumericsExactClauses := by
  intro nx
  refine ⟨fun fc fs o j k => ⟨nxHp_finite nx fc fs o j k, nxLp_finite nx fc fs o j k⟩,
    fun fc g q fs k => nxPk_finite nx fc g q fs k,
    fun secs f fs => ⟨fun h => nxMag_of_pole h nx, fun h => nxMag_of_noPole h nx⟩,
    fun fmin fmax w hfmin => ?_,
    fun x win k => ⟨nxBinMag_le nx x win k, fun h => nxBinMag_of_silence h nx k⟩, rfl, rfl, rfl,
    fun m hfin hpos => ⟨nxDb_of_positive_finite nx hfin hpos, nxDb_below_one nx hfin hpos, nxDb_above_one nx hfin hpos⟩,
    fun m1 m2 hn1 hn2 hs1 hs2 => nxDb_mono nx (legalDb_of_not_nan hn1 hs1) (legalDb_of_not_nan hn2 hs2),
    fun fc q fs => ?_, fun secs fs => ?_, nxMag_map_sameZero nx, nxBinMag_map_sameZero nx⟩
  · have hcol := fun x => nxColFreq_positiveFinite (positiveFinite_of_sweepFreq hfmin) nx fmax x w
    refine ⟨rfl, fun x => nxColFreq_point nx fmin x w, fun x => (positive_iff _).2 (hcol x), fun x y hxy => ?_⟩
    rw [f32Key_of_toNat_le (hcol x).2.le, f32Key_of_toNat_le (hcol y).2.le]
    exact Int.ofNat_le.2 (toNat_nxColFreq_mono nx fmin fmax w hxy)
  · rw [← nxPk_sameZero, sameZero_negZero]
  · rw [← nxMag_sameZero, sameZero_negZero]
end

section
/-! The reference configuration as the commands apply it is one rounding of each ideal (40_command_execution.md R145), and
doubling a normal value commutes with that rounding, which gives the relations of R184 and R185. -/

namespace Sys2Proof.Ideal
open Sys2Proof.Machine

/-! ### Rounding a negated and a doubled real -/

/-- Rounding is symmetric about 0 (00_scope.md R10). -/
theorem val_rne32_neg (r : ℝ) : val (rne32 (-r)) = -val (rne32 r) := by
  rcases eq_or_ne r 0 with rfl | hr
  · rw [neg_zero, rne32_zero, val_zero, neg_zero]
  · rw [val_eq, val_eq, f32Mag_rne32 hr, f32Mag_rne32 (neg_ne_zero.2 hr), abs_neg]
    simp only [f32Neg_rne32, neg_lt_zero]
    rcases hr.lt_or_gt with hn | hp
    · rw [if_neg hn.le.not_gt, if_pos hn, neg_neg]
    · rw [if_pos hp, if_neg hp.le.not_gt]

theorem val_rne32_of_pos {r : ℝ} (hr : 0 < r) (h : r < overflowBound) : val (rne32 r) = magVal (unboundedMag r) := by
  rw [val_eq, if_neg (by rw [f32Neg_rne32]; exact hr.le.not_gt), f32Mag_rne32 hr.ne', abs_of_pos hr,
    roundedMag_of_lt hr h]

theorem int_log_two_mul {x : ℝ} (hx : 0 < x) : Int.log 2 (2 * x) = Int.log 2 x + 1 := by
  have hlo : (2 : ℝ) ^ Int.log 2 x ≤ x := Int.zpow_log_le_self (by decide) hx
  have hhi : x < (2 : ℝ) ^ (Int.log 2 x + 1) := Int.lt_zpow_succ_log_self (by decide) x
  refine int_log_eq (by positivity) ?_ ?_ <;> rw [zpow_add_one₀ two_ne_zero] <;> linarith

/-- Above the subnormals a doubled value has the doubled quantum. -/
theorem quantumExp_two_mul {x : ℝ} (hx : 2 ^ (-126 : ℤ) ≤ x) : quantumExp (2 * x) = quantumExp x + 1 := by
  have hpos : 0 < x := lt_of_lt_of_le (by positivity) hx
  have hlog : -126 ≤ Int.log 2 x := (Int.zpow_le_iff_le_log (by decide) hpos).1 (by exact_mod_cast hx)
  rw [quantumExp, quantumExp, int_log_two_mul hpos]
  omega

/-- Above the subnormals doubling commutes with rounding. -/
theorem val_rne32_two_mul {x : ℝ} (hlo : 2 ^ (-126 : ℤ) ≤ x) (hhi : 2 * x < overflowBound) :
    val (rne32 (2 * x)) = 2 * val (rne32 x) := by
  have hpos : 0 < x := lt_of_lt_of_le (by positivity) hlo
  have hquanta : roundedQuanta (2 * x) = roundedQuanta x := by
    rw [roundedQuanta, roundedQuanta, quantumExp_two_mul hlo, zpow_add_one₀ two_ne_zero, mul_comm 2 x,
      mul_div_mul_right _ _ two_ne_zero]
  rw [val_rne32_of_pos (by positivity) hhi, val_rne32_of_pos hpos (by linarith), magVal_unboundedMag (by positivity),
    magVal_unboundedMag hpos, hquanta, quantumExp_two_mul hlo, zpow_add_one₀ two_ne_zero]
  ring

/-! ### The normalising factor of a cut section is far above the subnormals -/

/-- No section quality factor is below a half (41_coefficient_design.md R175). -/
theorem half_le_butterworthQ {o j : ℕ} (hj : j < o) : 1 / 2 ≤ butterworthQ o j := by
  have hpos := butterworthQ_pos hj
  rw [butterworthQ, one_div_pos] at hpos
  have hcos := Real.cos_le_one ((2 * j + 1) * Real.pi / (4 * o))
  exact one_div_le_one_div_of_le hpos (by linarith)

theorem one_div_tan_le {θ : ℝ} (h0 : 0 < θ) (h1 : θ < Real.pi / 2) : 1 / Real.tan θ ≤ 1 / θ :=
  one_div_le_one_div_of_le h0 (Real.le_tan h0.le h1)

/-- Both prewarped frequencies of a legal design are at most a million, as its frequency is at least 1 Hz away from 0 and
from `fs/2` (41_coefficient_design.md R171, R176, R177). -/
theorem LegalFreq.prewarped_le {fc fs : Word} (h : LegalFreq fc fs) (hfs : LegalRate fs) :
    Real.tan (Real.pi * val fc / val fs) ≤ 10 ^ 6 ∧ 1 / Real.tan (Real.pi * val fc / val fs) ≤ 10 ^ 6 := by
  obtain ⟨hangle, hangle'⟩ := h.angle
  obtain ⟨-, hlo, hhi⟩ := h
  obtain ⟨-, hrate, hrate'⟩ := hfs
  have hfs0 : 0 < val fs := by linarith
  have hpi := Real.pi_gt_three
  have near : ∀ d : ℝ, 1 ≤ d → 1 / (Real.pi * d / val fs) ≤ 10 ^ 6 := fun d hd => by
    have hd0 : 0 < Real.pi * d := by positivity
    rw [one_div_div, div_le_iff₀ hd0]
    nlinarith
  constructor
  · have hcompl : Real.pi / 2 - Real.pi * val fc / val fs = Real.pi * (val fs / 2 - val fc) / val fs := by
      field_simp
    have htan : Real.tan (Real.pi * val fc / val fs) = 1 / Real.tan (Real.pi / 2 - Real.pi * val fc / val fs) := by
      rw [Real.tan_pi_div_two_sub, one_div, inv_inv]
    rw [htan]
    refine (one_div_tan_le (by linarith) (by linarith)).trans ?_
    rw [hcompl]
    exact near _ (by linarith)
  · exact (one_div_tan_le hangle hangle').trans (near _ hlo)

theorem cut_factor_normal {n q : ℝ} (hn : 0 ≤ n) (hn' : n ≤ 10 ^ 6) (hq : 1 / 2 ≤ q) :
    2 ^ (-126 : ℤ) ≤ 1 / (1 + n / q + n ^ 2) := by
  have hq0 : 0 < q := by linarith
  have hnq : n / q ≤ 2 * n := by rw [div_le_iff₀ hq0]; nlinarith
  have hle : 1 + n / q + n ^ 2 ≤ 2 ^ 126 := by
    have : (3 : ℝ) * 10 ^ 12 ≤ 2 ^ 126 := by norm_num
    nlinarith
  rw [show (2 : ℝ) ^ (-126 : ℤ) = 1 / 2 ^ 126 by norm_num]
  exact one_div_le_one_div_of_le (by positivity) hle

/-- Twice the normalising factor of a legal cut section, rounded, is twice the rounded factor. -/
theorem val_rne32_two_cut_factor {n q : ℝ} (hn : 0 ≤ n) (hn' : n ≤ 10 ^ 6) (hq : 1 / 2 ≤ q) :
    val (rne32 (2 * (1 / (1 + n / q + n ^ 2)))) = 2 * val (rne32 (1 / (1 + n / q + n ^ 2))) := by
  have hone := (abs_le.1 (cut_factor_bounds hn (by linarith : 0 < q)).1).2
  exact val_rne32_two_mul (cut_factor_normal hn hn' hq) (lt_overflowBound (by linarith))

/-- `b1 = -2·b0` in the rounded high-pass section (41_coefficient_design.md R184). -/
theorem LegalCut.hp_b1 {fc fs : Word} {o j : ℕ} (h : LegalCut fc fs o j) :
    val (roundCoefs (hpIdeal (val fc) (val fs) (butterworthQ o j))).b1 =
      -2 * val (roundCoefs (hpIdeal (val fc) (val fs) (butterworthQ o j))).b0 := by
  obtain ⟨hrate, hfreq, -, -, hj⟩ := h
  have hdouble := val_rne32_two_cut_factor hfreq.tan_nonneg (hfreq.prewarped_le hrate).1 (half_le_butterworthQ hj)
  simp only [roundCoefs, hpIdeal]
  rw [neg_mul, val_rne32_neg, hdouble, neg_mul]

/-- `b1 = 2·b0` in the rounded low-pass section (41_coefficient_design.md R184). -/
theorem LegalCut.lp_b1 {fc fs : Word} {o j : ℕ} (h : LegalCut fc fs o j) :
    val (roundCoefs (lpIdeal (val fc) (val fs) (butterworthQ o j))).b1 =
      2 * val (roundCoefs (lpIdeal (val fc) (val fs) (butterworthQ o j))).b0 := by
  obtain ⟨hrate, hfreq, -, -, hj⟩ := h
  exact val_rne32_two_cut_factor (one_div_nonneg.2 hfreq.tan_nonneg) (hfreq.prewarped_le hrate).2
    (half_le_butterworthQ hj)

/-! ### The peaking design of gain 0 -/

theorem rne32_one : rne32 1 = 0x3F800000 := by
  have hself := rne32_val (v := 0x3F800000) (by decide) (by decide)
  rwa [val_one] at hself

/-- With gain 0 the numerator of the ideal peaking section is its denominator (41_coefficient_design.md R185). -/
theorem pkIdeal_gain_zero {f q fs : ℝ} (hsin : 0 ≤ Real.sin (2 * Real.pi * f / fs)) (hq : 0 < q) :
    (pkIdeal f 0 q fs).b0 = 1 ∧ (pkIdeal f 0 q fs).b2 = (pkIdeal f 0 q fs).a2 := by
  have hα : 0 ≤ Real.sin (2 * Real.pi * f / fs) / (2 * q) := by positivity
  simp only [pkIdeal, zero_div, Real.rpow_zero, mul_one, div_one, and_true]
  exact div_self (by linarith)

/-! ### The reference configuration as applied -/

theorem reference_meets : Meets (numericsOf .reference) refEps := numericsOf_reference ▸ nxRef_meets

theorem nxHp_reference {fc fs : Word} {o j : ℕ} (h : LegalCut fc fs o j) :
    nxHp .reference fc fs o j = roundCoefs (hpIdeal (val fc) (val fs) (butterworthQ o j)) := by
  rw [nxHp, numericsOf_reference, asFiniteCoefs_of_finite (nxRef_meets.hp fc fs o j h).1]
  rfl

theorem nxLp_reference {fc fs : Word} {o j : ℕ} (h : LegalCut fc fs o j) :
    nxLp .reference fc fs o j = roundCoefs (lpIdeal (val fc) (val fs) (butterworthQ o j)) := by
  rw [nxLp, numericsOf_reference, asFiniteCoefs_of_finite (nxRef_meets.lp fc fs o j h).1]
  rfl

theorem LegalPeak.sameZero {fc g q fs : Word} (h : LegalPeak fc g q fs) : LegalPeak fc (Machine.sameZero g) q fs := by
  obtain ⟨hrate, hfreq, ⟨hfin, hgain⟩, hq⟩ := h
  exact ⟨hrate, hfreq, ⟨by rwa [isFinite_sameZero], by rwa [val_sameZero]⟩, hq⟩

theorem nxPk_reference {fc g q fs : Word} (h : LegalPeak fc g q fs) :
    nxPk .reference fc g q fs = roundCoefs (pkIdeal (val fc) (val g) (val q) (val fs)) := by
  rw [nxPk, numericsOf_reference, asFiniteCoefs_of_finite (nxRef_meets.pk _ _ _ _ h.sameZero).1, ← val_sameZero g]
  rfl

theorem LegalPeak.pk_gain_zero {fc g q fs : Word} (h : LegalPeak fc g q fs) (hg : val g = 0) :
    (roundCoefs (pkIdeal (val fc) (val g) (val q) (val fs))).b0 = 0x3F800000 ∧
      (roundCoefs (pkIdeal (val fc) (val g) (val q) (val fs))).b2 =
        (roundCoefs (pkIdeal (val fc) (val g) (val q) (val fs))).a2 := by
  obtain ⟨-, hfreq, -, hq⟩ := h
  obtain ⟨hb0, hb2⟩ := pkIdeal_gain_zero hfreq.sin_nonneg hq.pos
  rw [hg]
  exact ⟨(congrArg rne32 hb0).trans rne32_one, congrArg rne32 hb2⟩

/-- A rounded magnitude is `+0`, positive or `+Inf`. -/
theorem rne32_toNat_le {m : ℝ} (hm : 0 ≤ m) : (rne32 m).toNat ≤ 0x7F800000 :=
  (rne32_magWithin hm fun _ => le_refl _).1

theorem nxMag_reference {secs : List Coefs} {f fs : Word} (h : LegalMag secs f fs) (hpole : ¬HasPole secs f fs) :
    nxMag .reference secs f fs = rne32 (cascadeMag secs f fs) := by
  have hcfg : nxRef.mag (secs.map Coefs.sameZero) (sameZero f) fs = rne32 (cascadeMag secs f fs) := by
    rw [show nxRef.mag _ _ fs = rne32 (cascadeMag (secs.map Coefs.sameZero) (sameZero f) fs) from
      if_neg (by rwa [hasPole_sameZero]), cascadeMag_sameZero]
  rw [nxMag, if_neg (mt h.any_pole_iff.1 hpole), numericsOf_reference, hcfg]
  split_ifs with hzero
  · rw [h.cascade_of_zero hzero, rne32_zero]
  · exact asMagnitude_of_le (rne32_toNat_le (cascadeMag_nonneg secs f fs))

theorem LegalBin.length_pos {x : List Word} {win k : ℕ} (h : LegalBin x win k) : 0 < x.length := by
  obtain ⟨-, -, -, hk⟩ := h
  omega

theorem nxBinMag_reference {x : List Word} {win k : ℕ} (h : LegalBin x win k) :
    nxBinMag .reference x win k = rne32 (binIdeal x win k) := by
  have hcfg : nxRef.binMag (x.map sameZero) win k = rne32 (binIdeal x win k) := by
    rw [← binIdeal_sameZero]
    rfl
  rw [nxBinMag, numericsOf_reference, hcfg]
  split_ifs with hsilent hover
  · rw [binIdeal_of_silence hsilent, rne32_zero]
  · exact (rne32_of_overflow (overflow_of_binZeroOverflows h.length_pos hover)).1.symm
  · exact asMagnitude_of_le (rne32_toNat_le (binIdeal_nonneg x win k))

theorem nxColFreq_reference {fmin fmax : Word} {x w : ℕ} (h : LegalColumn fmin fmax w) (hx : x < w) :
    nxColFreq .reference fmin fmax x w = rne32 (colIdeal fmin fmax x w) := by
  rw [reference_meets.nxColFreq_eq h hx, numericsOf_reference]
  rfl

theorem nxDb_reference {m : Word} (hfin : isFinite m = true) (hpos : f32Lt 0 m = true) :
    nxDb .reference m = rne32 (decibels (val m)) := by
  rw [reference_meets.nxDb_eq (legalDb_of_positive hfin hpos), numericsOf_reference, nxRef_db_of_positive hfin hpos]

end Sys2Proof.Ideal

open Sys2Proof Sys2Proof.Machine

/-- Settles O57: on legal operands the machine's guards leave `NX_ref` as it is, and the relations of R184 and R185 hold
of the rounded ideals. -/
theorem referenceRoundsTheIdeals : Obligations.ReferenceRoundsTheIdeals := by
  refine ⟨fun fc fs o j h => ?_, fun fc g q fs h => ?_,
    fun secs f fs h => ⟨fun hpole => if_pos (h.any_pole_iff.2 hpole), Ideal.nxMag_reference h⟩,
    fun _ _ _ _ => Ideal.nxColFreq_reference, fun _ _ _ => Ideal.nxBinMag_reference,
    fun _ => Ideal.nxDb_reference⟩
  · rw [Ideal.nxHp_reference h, Ideal.nxLp_reference h]
    exact ⟨rfl, rfl, h.hp_b1, h.lp_b1⟩
  · rw [Ideal.nxPk_reference h]
    exact ⟨rfl, rfl, h.pk_gain_zero⟩
end

section
/-! The coefficient design commands: the sections and the BYPASS bits they write (41_coefficient_design.md R179 to
R183), the range of the order (R173), and the clamps of the other operands (R171, R172, R174). -/

namespace Sys2Proof.Machine

/-! ### BYPASS -/

theorem getLsbD_fifteen (i : Nat) : (0xF#32).getLsbD i = decide (i < 4) := by
  have hmask : (0xF#32) = (BitVec.allOnes 4).setWidth 32 := by decide
  rw [hmask, BitVec.getLsbD_setWidth, BitVec.getLsbD_allOnes]
  by_cases hi : i < 4
  · simp [hi, show i < 32 by omega]
  · simp [hi]

/-- Of the four section bits from `lo` on the first `o` become 0 and the others 1; the other bits stay
(41_coefficient_design.md R181, R183). -/
theorem getLsbD_setSectionBits (bypass : Word) {lo o b : Nat} (ho : o ≤ 4) (hb : b < 32) :
    (setSectionBits bypass lo o).getLsbD b =
      if lo ≤ b ∧ b < lo + o then false else if lo + o ≤ b ∧ b < lo + 4 then true else bypass.getLsbD b := by
  simp only [setSectionBits, BitVec.getLsbD_or, BitVec.getLsbD_and, BitVec.getLsbD_not, BitVec.getLsbD_shiftLeft,
    getLsbD_fifteen, hb, decide_true, Bool.true_and]
  by_cases hbelow : b < lo
  · simp [hbelow, show ¬(lo ≤ b) by omega, show ¬(lo + o ≤ b) by omega]
  · by_cases habove : lo + 4 ≤ b
    · simp [hbelow, show ¬(b - lo < 4) by omega, show ¬(b < lo + o) by omega, show ¬(b < lo + 4) by omega]
    · by_cases hset : b < lo + o
      · simp [hbelow, show b - lo < 4 by omega, show b - lo < o by omega, show lo ≤ b by omega, hset]
      · simp [hbelow, hset, show b - lo < 4 by omega, show ¬(b - lo < o) by omega, show b - lo - o < 4 by omega,
          show b - lo < 32 by omega, show lo + o ≤ b by omega, show b < lo + 4 by omega]

/-! ### The cut designs -/

theorem designCut_coef (s : State) (base lo o : Nat) (f : Nat → Coefs) (i : Fin 9) :
    (designCut s base lo o f).coef[i] = if base ≤ i.val ∧ i.val < base + o then f (i.val - base) else s.coef[i] :=
  writeSections_get s.coef base o f i

theorem designCut_bypass (s : State) (base lo : Nat) {o : Nat} (f : Nat → Coefs) (ho : o ≤ 4) (b : Nat) (hb : b < 32) :
    (designCut s base lo o f).bypass.getLsbD b =
      if lo ≤ b ∧ b < lo + o then false else if lo + o ≤ b ∧ b < lo + 4 then true else s.bypass.getLsbD b :=
  getLsbD_setSectionBits s.bypass ho hb

theorem designCut_frame (s : State) (base lo o : Nat) (f : Nat → Coefs) :
    designCut s base lo o f = { s with
      coef := (designCut s base lo o f).coef, bypass := (designCut s base lo o f).bypass, result := 0 } := rfl

/-! ### The range of the order -/

theorem orderLegal_iff (o : Nat) : orderLegal o = true ↔ 1 ≤ o ∧ o ≤ 4 := by simp [orderLegal]

theorem orderLegal_clamp (o : Nat) : orderLegal (orderClamp o) = true := by
  unfold orderClamp
  split <;> rfl

/-- DESIGN_LOWCUT of a legal order (41_coefficient_design.md R181). -/
theorem exec_designLowcut_legal (s : State) {o : Nat} (ho : orderLegal o = true) :
    exec (.designLowcut o) s = .next (designCut s firstLowcut 4 o fun j =>
      nxHp s.build.nx (clampFreq s.sampleRate s.arg0) s.sampleRate o j) :=
  congrArg Host.Outcome.next (if_pos ho)

/-- DESIGN_HIGHCUT of a legal order (41_coefficient_design.md R183). -/
theorem exec_designHighcut_legal (s : State) {o : Nat} (ho : orderLegal o = true) :
    exec (.designHighcut o) s = .next (designCut s firstHighcut 12 o fun j =>
      nxLp s.build.nx (clampFreq s.sampleRate s.arg0) s.sampleRate o j) :=
  congrArg Host.Outcome.next (if_pos ho)

/-- A class-(d) condition with an illegal operand rejects when STRICT is 1 (40_command_execution.md R143). -/
theorem classD_strict {α : Type} {s : State} {ok : Bool} (e : ErrCode) (x y : α) (go : α → State → State)
    (hok : ok = false) (hs : s.ctrl.getLsbD 0 = true) : classD s ok e x y go = State.reject s e := by
  simp [classD, hok, State.strict, hs]

/-- A class-(d) condition with an illegal operand records the clamp and goes on when STRICT is 0
(40_command_execution.md R143). -/
theorem classD_lenient {α : Type} {s : State} {ok : Bool} (e : ErrCode) (x y : α) (go : α → State → State)
    (hok : ok = false) (hs : s.ctrl.getLsbD 0 = false) : classD s ok e x y go = go y (State.recordClamp s e) := by
  rw [classD, if_neg (by simp [hok]), if_neg (by simp only [State.strict, hs, Bool.false_eq_true, not_false_iff])]

/-! ### The peak design -/

theorem getLsbD_clear_bit (w : Word) {i b : Nat} (hb : b < 32) :
    (w &&& ~~~(BitVec.twoPow 32 i)).getLsbD b = if b = i then false else w.getLsbD b := by
  rw [BitVec.getLsbD_and, BitVec.getLsbD_not, BitVec.getLsbD_twoPow]
  by_cases hbi : b = i
  · simp [hbi, hbi ▸ hb]
  · simp [hb, hbi, Ne.symm hbi]

/-! ### The operands' clamps -/

/-- The value that `FHI` rounds (41_coefficient_design.md R171). -/
theorem freqHigh_eq (fs : Word) : freqHigh fs = Ideal.rne32 (Ideal.val fs / 2 - 1) := by
  have hunits : 0 < unitsPerOne := by unfold unitsPerOne; positivity
  have hratio : ((valUnits fs - 2 * unitsPerOne : ℤ) : ℝ) / (2 * unitsPerOne : ℕ) = Ideal.val fs / 2 - 1 := by
    have hne : (unitsPerOne : ℝ) ≠ 0 := by exact_mod_cast hunits.ne'
    rw [Ideal.val_eq_units]
    push_cast
    field_simp
  rw [freqHigh, Ideal.machine_rne32_eq _ (by omega), hratio]

/-- Any whole number of at most 24 bits, scaled by a power of two, is a magnitude. -/
theorem exists_magUnits_eq {m : Nat} (hm : m ≤ 0x1000000) (e : Nat) : ∃ k, magUnits k = m * 2 ^ e := by
  induction e with
  | zero => exact ⟨m, by simpa using magUnits_quanta (E := 0) (.inl rfl) hm⟩
  | succ e ih =>
    obtain ⟨k, hk⟩ := ih
    obtain hsub | ⟨d, f, hf, rfl⟩ := subnormal_or_normal k
    · have hdouble := magUnits_quanta (E := 0) (m := 2 * k) (.inl rfl) (by omega)
      rw [magUnits_of_lt hsub] at hk
      exact ⟨2 * k, by rw [pow_succ, ← mul_assoc, ← hk]; simpa [mul_comm] using hdouble⟩
    · rw [magUnits_normal hf] at hk
      exact ⟨(d + 1 + 1) * 0x800000 + f, by rw [magUnits_normal hf, pow_succ, ← mul_assoc, hk, pow_succ, mul_assoc]⟩

/-- Half a legal sample rate less 1 is an `f32`: its quantum is at least that of the rate's half, and below 1. -/
theorem exists_half_rate_sub_one {fs : Word} (h : InRange fs sampleRateLow sampleRateHigh) :
    ∃ w, isFinite w = true ∧ f32Neg w = false ∧ 2 * valUnits w = valUnits fs - 2 * unitsPerOne := by
  obtain ⟨hneg, hlow⟩ := sampleRate_bounds h
  obtain ⟨-, -, hhigh⟩ := h
  have hunits : valUnits fs = magUnits (f32Mag fs) := by simp [valUnits, hneg]
  rw [show f32Key sampleRateHigh = 0x493B8000 by decide, f32Key, if_neg (by simp [hneg])] at hhigh
  obtain hsub | ⟨e, f, hf, hmag⟩ := subnormal_or_normal (f32Mag fs)
  · omega
  obtain ⟨d, rfl⟩ : ∃ d, e = d + 1 := ⟨e - 1, by omega⟩
  have hone : 2 ^ (149 - d) ≤ 0x8000 := (Nat.pow_le_pow_right two_pos (by omega : 149 - d ≤ 15)).trans (by decide)
  have hsplit : 2 ^ (149 - d) * 2 ^ d = unitsPerOne := by rw [← pow_add, Nat.sub_add_cancel (by omega), unitsPerOne]
  obtain ⟨k, hk⟩ := exists_magUnits_eq (m := 0x800000 + f - 2 ^ (149 - d)) ((Nat.sub_le _ _).trans (by omega)) d
  have hhalf : 2 * magUnits k + 2 * unitsPerOne = magUnits (f32Mag fs) := by
    rw [hmag, magUnits_normal hf, hk, ← hsplit, ← mul_add, ← add_mul, Nat.sub_add_cancel (by omega), pow_succ]
    ring
  have hle : k ≤ f32Mag fs := magUnits_strictMono.le_iff_le.1 (by omega)
  have hlt : k < 0x80000000 := by omega
  refine ⟨BitVec.ofNat 32 k, ?_, f32Neg_ofNat hlt, ?_⟩
  · rw [isFinite, f32Mag_ofNat hlt, decide_eq_true_eq]
    omega
  · rw [valUnits, f32Neg_ofNat hlt, f32Mag_ofNat hlt, hunits, if_neg (by decide)]
    omega

/-- `FHI` is exact (41_coefficient_design.md R171). -/
theorem freqHigh_exact {fs : Word} (h : InRange fs sampleRateLow sampleRateHigh) :
    2 * valUnits (freqHigh fs) = valUnits fs - 2 * unitsPerOne ∧ isFinite (freqHigh fs) = true := by
  obtain ⟨w, hfin, hneg, hval⟩ := exists_half_rate_sub_one h
  have hreal : Ideal.val w = Ideal.val fs / 2 - 1 := by
    have hunits : (2 : ℝ) * valUnits w = valUnits fs - 2 * 2 ^ 149 := by
      rw [unitsPerOne] at hval
      exact_mod_cast hval
    rw [Ideal.val, Ideal.val]
    linarith
  have hself : freqHigh fs = w := by
    rw [freqHigh_eq, ← hreal]
    refine Ideal.rne32_val hfin ?_
    rintro rfl
    exact absurd hneg (by decide)
  rw [hself]
  exact ⟨hval, hfin⟩

/-- The frequency range is not empty: a legal sample rate is at least 1000 (10_state.md R44). -/
theorem f32One_le_freqHigh {fs : Word} (h : InRange fs sampleRateLow sampleRateHigh) :
    f32Key f32One ≤ f32Key (freqHigh fs) := by
  obtain ⟨hneg, hlow⟩ := sampleRate_bounds h
  have hrate : 1000 ≤ Ideal.val fs := by
    have hunits : magUnits 0x447A0000 ≤ magUnits (f32Mag fs) := magUnits_strictMono.monotone hlow
    rw [show magUnits 0x447A0000 = 1000 * 2 ^ 149 by decide] at hunits
    rw [Ideal.val_eq, if_neg (by simp [hneg]), Ideal.magVal, le_div_iff₀ (by positivity)]
    exact_mod_cast hunits
  rw [freqHigh_eq, f32One, ← Ideal.rne32_one]
  exact Ideal.f32Key_rne32_mono (by linarith)

end Sys2Proof.Machine

open Sys2Proof Sys2Proof.Machine

/-- Settles O18: CHAIN_RESET stores the reset values of COEF and BYPASS. -/
theorem chainResetRestoresTheChain : Obligations.ChainResetRestoresTheChain := fun s =>
  ⟨_, rfl, fun i => by simp [identityCoefs], rfl⟩

/-- Settles O19: a legal order takes the branch of `designCut`. -/
theorem cutsDesignTheirSections : Obligations.CutsDesignTheirSections := by
  intro s o h1 h4
  have ho : orderLegal o = true := (orderLegal_iff o).2 ⟨h1, h4⟩
  refine ⟨⟨_, exec_designLowcut_legal s ho, fun i => ?_, designCut_bypass s _ _ _ h4, designCut_frame ..⟩,
    ⟨_, exec_designHighcut_legal s ho, fun i => designCut_coef .., designCut_bypass s _ _ _ h4,
      designCut_frame ..⟩⟩
  rw [designCut_coef]
  simp [firstLowcut]

/-- Settles O20: an illegal order takes one of the two other branches of the class-(d) check. -/
theorem orderOutOfRange : Obligations.OrderOutOfRange := by
  intro s o ho
  have hillegal : orderLegal o = false := by
    rw [Bool.eq_false_iff, ne_eq, orderLegal_iff]
    omega
  refine ⟨fun hs => ?_, fun hs => ?_⟩
  · have hreject := reject_eq s .badOrder
    exact ⟨congrArg Host.Outcome.next ((classD_strict _ _ _ _ hillegal hs).trans hreject),
      congrArg Host.Outcome.next ((classD_strict _ _ _ _ hillegal hs).trans hreject)⟩
  · rw [show (if o = 0 then 1 else 4) = orderClamp o from rfl, exec_designLowcut_legal _ (orderLegal_clamp o),
      exec_designHighcut_legal _ (orderLegal_clamp o), show (0x05 : Byte) = ErrCode.badOrder.code from rfl,
      ← recordClamp_eq]
    exact ⟨congrArg Host.Outcome.next (classD_lenient _ _ _ _ hillegal hs),
      congrArg Host.Outcome.next (classD_lenient _ _ _ _ hillegal hs)⟩

/-- Settles O21: the peak is the one section from section 4 on, and its bit is bit 8. -/
theorem peakDesignsItsSection : Obligations.PeakDesignsItsSection := by
  refine fun s => ⟨_, rfl, fun i => ?_, fun b hb => getLsbD_clear_bit s.bypass hb, rfl⟩
  refine (writeSections_get s.coef peakSection 1 _ i).trans (if_congr ?_ rfl rfl)
  unfold peakSection
  omega

/-- Settles O22: `FHI` is exact, and the clamp is a legalised write over 1 into a range that is not empty. -/
theorem frequencyClamp : Obligations.FrequencyClamp := by
  intro fs v h
  obtain ⟨hexact, hfin⟩ := freqHigh_exact h
  exact ⟨hexact, hfin, rangeWrite_legalised (by decide) (isNaN_of_isFinite hfin) (f32One_le_freqHigh h) f32One v⟩

/-- Settles O23: both clamps are legalised writes over the value a NaN takes. -/
theorem gainAndQClamps : Obligations.GainAndQClamps := fun v =>
  ⟨rangeWrite_legalised (by decide) (by decide) (by decide) 0x00000000 v,
    rangeWrite_legalised (by decide) (by decide) (by decide) 0x3F800000 v⟩
end

section
/-! The gains of the ideal cut designs (41_coefficient_design.md R184). On the unit circle the square of a section's
magnitude is a ratio of two quadratics in `cos ω`; in the variables `n²·(1 + cos ω)` and `1 − cos ω` the low-pass and
the high-pass section mirror each other. -/

namespace Sys2Proof.Ideal

/-! ### The magnitude of a section on the unit circle -/

/-- `|x0 + x1·z⁻¹ + x2·z⁻²|²` at `z = e^(iω)`. -/
noncomputable def circlePower (x0 x1 x2 w : ℝ) : ℝ := ((x0 + x2) * Real.cos w + x1) ^ 2 + ((x0 - x2) * Real.sin w) ^ 2

theorem norm_quadratic (x0 x1 x2 w : ℝ) :
    ‖(x0 : ℂ) + x1 * (Complex.exp (w * Complex.I))⁻¹ + x2 * ((Complex.exp (w * Complex.I))⁻¹) ^ 2‖ =
      √(circlePower x0 x1 x2 w) := by
  set z := Complex.exp (w * Complex.I) with hz
  have hz0 : z ≠ 0 := Complex.exp_ne_zero _
  have hre : z = Real.cos w + Real.sin w * Complex.I := by
    rw [hz, Complex.exp_mul_I, Complex.ofReal_cos, Complex.ofReal_sin]
  have hinv : z⁻¹ = Real.cos w - Real.sin w * Complex.I := by
    rw [hz, ← Complex.exp_neg, ← neg_mul, Complex.exp_mul_I, Complex.cos_neg, Complex.sin_neg, Complex.ofReal_cos,
      Complex.ofReal_sin, neg_mul, sub_eq_add_neg]
  have hsplit : z * (x0 + x1 * z⁻¹ + x2 * z⁻¹ ^ 2) =
      (((x0 + x2) * Real.cos w + x1 : ℝ) : ℂ) + (((x0 - x2) * Real.sin w : ℝ) : ℂ) * Complex.I := by
    calc z * (x0 + x1 * z⁻¹ + x2 * z⁻¹ ^ 2) = x0 * z + x1 + x2 * z⁻¹ := by field_simp
      _ = _ := by rw [hinv, hre]; push_cast; ring
  calc ‖(x0 : ℂ) + x1 * z⁻¹ + x2 * z⁻¹ ^ 2‖ = ‖z * (x0 + x1 * z⁻¹ + x2 * z⁻¹ ^ 2)‖ := by
        rw [norm_mul, hz, Complex.norm_exp_ofReal_mul_I, one_mul]
    _ = _ := by rw [hsplit, Complex.norm_add_mul_I, circlePower]

theorem realMag_eq (c : RealCoefs) (w : ℝ) :
    realMag c w = √(circlePower c.b0 c.b1 c.b2 w) / √(circlePower 1 c.a1 c.a2 w) := by
  have hden := norm_quadratic 1 c.a1 c.a2 w
  rw [Complex.ofReal_one] at hden
  rw [realMag, realNum, realDen, norm_quadratic, hden]

/-- A common factor of both polynomials cancels. -/
theorem sqrt_div_sqrt_of_scaled {k a b : ℝ} (hk : 0 < k) : √(k ^ 2 * a) / √(k ^ 2 * b) = √a / √b := by
  rw [Real.sqrt_mul (sq_nonneg k), Real.sqrt_mul (sq_nonneg k), Real.sqrt_sq hk.le, mul_div_mul_left _ _ hk.ne']

/-! ### The cut sections -/

/-- What the low-pass section prewarped to `n` passes at `e^(iω)`, up to the denominator of both cut sections. -/
noncomputable def lowPart (n w : ℝ) : ℝ := n ^ 2 * (1 + Real.cos w)

/-- What the high-pass section passes at `e^(iω)`, up to the same denominator. -/
noncomputable def highPart (w : ℝ) : ℝ := 1 - Real.cos w

/-- The square of a cut section's denominator, from its low and its high part. -/
noncomputable def cutPower (q x y : ℝ) : ℝ := (x - y) ^ 2 + x * y / q ^ 2

theorem highPart_nonneg (w : ℝ) : 0 ≤ highPart w := sub_nonneg.2 (Real.cos_le_one w)

theorem lowPart_nonneg (n w : ℝ) : 0 ≤ lowPart n w :=
  mul_nonneg (sq_nonneg n) (by linarith [Real.neg_one_le_cos w])

theorem realMag_hpIdeal {f fs q : ℝ} (w : ℝ) (hn : 0 < Real.tan (Real.pi * f / fs)) (hq : 0 < q) :
    realMag (hpIdeal f fs q) w =
      highPart w / √(cutPower q (lowPart (Real.tan (Real.pi * f / fs)) w) (highPart w)) := by
  rw [realMag_eq]
  simp only [hpIdeal]
  set n := Real.tan (Real.pi * f / fs)
  have hd : 0 < 1 + n / q + n ^ 2 := by positivity
  have hsin := Real.sin_sq w
  have hnum : circlePower (1 / (1 + n / q + n ^ 2)) (-2 * (1 / (1 + n / q + n ^ 2))) (1 / (1 + n / q + n ^ 2)) w =
      (2 / (1 + n / q + n ^ 2)) ^ 2 * highPart w ^ 2 := by
    unfold circlePower highPart; ring
  have hden : circlePower 1 (2 * (1 / (1 + n / q + n ^ 2)) * (n ^ 2 - 1))
      (1 / (1 + n / q + n ^ 2) * (1 - n / q + n ^ 2)) w =
      (2 / (1 + n / q + n ^ 2)) ^ 2 * cutPower q (lowPart n w) (highPart w) := by
    rw [circlePower, mul_pow _ (Real.sin w), hsin, cutPower, lowPart, highPart]
    field_simp
    ring
  rw [hnum, hden, sqrt_div_sqrt_of_scaled (by positivity), Real.sqrt_sq (highPart_nonneg w)]

theorem realMag_lpIdeal {f fs q : ℝ} (w : ℝ) (hn : 0 < Real.tan (Real.pi * f / fs)) (hq : 0 < q) :
    realMag (lpIdeal f fs q) w =
      lowPart (Real.tan (Real.pi * f / fs)) w /
        √(cutPower q (lowPart (Real.tan (Real.pi * f / fs)) w) (highPart w)) := by
  rw [realMag_eq]
  simp only [lpIdeal]
  set n := Real.tan (Real.pi * f / fs)
  set c1 := 1 / (1 + 1 / n / q + (1 / n) ^ 2) with hc1
  have hd : 0 < 1 + 1 / n / q + (1 / n) ^ 2 := by positivity
  have hsin := Real.sin_sq w
  have hnum : circlePower c1 (2 * c1) c1 w = (2 * c1 / n ^ 2) ^ 2 * lowPart n w ^ 2 := by
    unfold circlePower lowPart; field_simp; ring
  have hden : circlePower 1 (2 * c1 * (1 - (1 / n) ^ 2)) (c1 * (1 - 1 / n / q + (1 / n) ^ 2)) w =
      (2 * c1 / n ^ 2) ^ 2 * cutPower q (lowPart n w) (highPart w) := by
    rw [circlePower, mul_pow _ (Real.sin w), hsin, cutPower, lowPart, highPart, hc1]
    field_simp
    ring
  rw [hnum, hden, sqrt_div_sqrt_of_scaled (by positivity), Real.sqrt_sq (lowPart_nonneg n w)]

/-! ### The operands of the ideal designs -/

theorem cut_angle {f fs : ℝ} (hf : 0 < f) (hfs : f < fs / 2) :
    0 < Real.pi * f / fs ∧ Real.pi * f / fs < Real.pi / 2 := by
  have hfs0 : 0 < fs := by linarith
  refine ⟨by positivity, ?_⟩
  rw [div_lt_div_iff₀ hfs0 two_pos]
  nlinarith [Real.pi_pos]

theorem cut_tan_pos {f fs : ℝ} (hf : 0 < f) (hfs : f < fs / 2) : 0 < Real.tan (Real.pi * f / fs) :=
  Real.tan_pos_of_pos_of_lt_pi_div_two (cut_angle hf hfs).1 (cut_angle hf hfs).2

/-- At a section's own frequency its low and high parts are equal. -/
theorem parts_at_cutoff {f fs : ℝ} (hf : 0 < f) (hfs : f < fs / 2) :
    lowPart (Real.tan (Real.pi * f / fs)) (2 * Real.pi * f / fs) = highPart (2 * Real.pi * f / fs) ∧
      0 < highPart (2 * Real.pi * f / fs) := by
  obtain ⟨hlo, hhi⟩ := cut_angle hf hfs
  have hsin : 0 < Real.sin (Real.pi * f / fs) := Real.sin_pos_of_pos_of_lt_pi hlo (by linarith)
  have hcos : 0 < Real.cos (Real.pi * f / fs) := Real.cos_pos_of_mem_Ioo ⟨by linarith, hhi⟩
  have hdouble : 2 * Real.pi * f / fs = 2 * (Real.pi * f / fs) := by ring
  have hhigh : highPart (2 * Real.pi * f / fs) = 2 * Real.sin (Real.pi * f / fs) ^ 2 := by
    rw [highPart, hdouble, Real.cos_two_mul, Real.sin_sq]
    ring
  refine ⟨?_, by rw [hhigh]; positivity⟩
  rw [hhigh, lowPart, hdouble, Real.cos_two_mul, Real.tan_eq_sin_div_cos]
  field_simp
  ring

theorem sqrt_cutPower_self {q x : ℝ} (hq : 0 < q) (hx : 0 < x) : √(cutPower q x x) = x / q := by
  rw [cutPower, sub_self, zero_pow two_ne_zero, zero_add, ← sq, ← div_pow, Real.sqrt_sq (by positivity)]

theorem sqrt_cutPower_low {q x : ℝ} (hx : 0 ≤ x) : √(cutPower q x 0) = x := by
  rw [cutPower, sub_zero, mul_zero, zero_div, add_zero, Real.sqrt_sq hx]

theorem sqrt_cutPower_high {q y : ℝ} (hy : 0 ≤ y) : √(cutPower q 0 y) = y := by
  rw [cutPower, zero_sub, neg_sq, zero_mul, zero_div, add_zero, Real.sqrt_sq hy]

@[simp] theorem highPart_zero : highPart 0 = 0 := by simp [highPart]
@[simp] theorem lowPart_zero (n : ℝ) : lowPart n 0 = n ^ 2 * 2 := by simp only [lowPart, Real.cos_zero]; ring
@[simp] theorem highPart_pi : highPart Real.pi = 2 := by simp only [highPart, Real.cos_pi]; ring
@[simp] theorem lowPart_pi (n : ℝ) : lowPart n Real.pi = 0 := by simp [lowPart]

end Sys2Proof.Ideal

open Sys2Proof Sys2Proof.Machine Sys2Proof.Ideal

/-- Settles O58: the gains are those of the two parts: at 0 Hz the high part is 0, at `fs/2` the low part is, and at the
section's own frequency they are equal. -/
theorem idealCutGains : Obligations.IdealCutGains := by
  intro f fs q hf hfs hq
  have hn := cut_tan_pos hf hfs
  obtain ⟨hparts, hpos⟩ := parts_at_cutoff hf hfs
  have hown : highPart (2 * Real.pi * f / fs) / (highPart (2 * Real.pi * f / fs) / q) = q := by
    field_simp
  refine ⟨⟨?_, ?_, ?_, ?_, ?_, ?_⟩, ?_, ?_, ?_⟩
  · simp only [hpIdeal]; ring
  · simp only [hpIdeal]; ring
  · simp only [hpIdeal]
    have hd : 0 < 1 + Real.tan (Real.pi * f / fs) / q + Real.tan (Real.pi * f / fs) ^ 2 := by positivity
    field_simp
    ring
  · rw [realMag_hpIdeal 0 hn hq]
    simp
  · rw [realMag_hpIdeal _ hn hq, lowPart_pi, sqrt_cutPower_high (highPart_nonneg _), highPart_pi, div_self two_ne_zero]
  · rw [realMag_hpIdeal _ hn hq, hparts, sqrt_cutPower_self hq hpos, hown]
  · rw [realMag_lpIdeal 0 hn hq, highPart_zero, sqrt_cutPower_low (lowPart_nonneg _ _), lowPart_zero,
      div_self (by positivity)]
  · rw [realMag_lpIdeal _ hn hq]
    simp
  · rw [realMag_lpIdeal _ hn hq, hparts, sqrt_cutPower_self hq hpos, hown]
end

section
/-! The ideal cut stages are Butterworth filters (41_coefficient_design.md R175, R184): the denominators of a stage's
sections multiply to `x^(2o) + y^(2o)`, by the roots of the Chebyshev polynomial of order `o`. -/

namespace Sys2Proof.Ideal

/-! ### The Butterworth product -/

theorem eval_T_eq_prod {o : ℕ} (ho : 1 ≤ o) (u : ℝ) :
    2 * (Polynomial.Chebyshev.T ℝ o).eval u =
      ∏ j ∈ Finset.range o, 2 * (u - Real.cos ((2 * j + 1) * Real.pi / (2 * o))) := by
  have hinj := (Finset.range o).nodup_map_iff_injOn.1 (Polynomial.Chebyshev.roots_T_real_nodup o)
  have hcard : (Polynomial.Chebyshev.T ℝ o).roots.card = (Polynomial.Chebyshev.T ℝ o).natDegree := by
    rw [Polynomial.Chebyshev.roots_T_real, Finset.card_val, Finset.card_image_of_injOn hinj, Finset.card_range,
      Polynomial.Chebyshev.natDegree_T, Int.natAbs_natCast]
  have hprod := Polynomial.C_leadingCoeff_mul_prod_multiset_X_sub_C hcard
  rw [Polynomial.Chebyshev.roots_T_real, Polynomial.Chebyshev.leadingCoeff_T, Int.natAbs_natCast,
    Finset.prod_map_val, Finset.prod_image hinj] at hprod
  rw [← hprod, Polynomial.eval_mul, Polynomial.eval_C, Polynomial.eval_prod, Finset.prod_mul_distrib,
    Finset.prod_const, Finset.card_range, ← mul_assoc, ← pow_succ', Nat.sub_add_cancel ho]
  simp

theorem eval_T_add_inv {r : ℝ} (hr : r ≠ 0) (o : ℕ) :
    2 * (Polynomial.Chebyshev.T ℝ o).eval ((r + r⁻¹) / 2) = r ^ o + r⁻¹ ^ o := by
  have hdickson := Polynomial.dickson_one_one_eval_add_inv r r⁻¹ (mul_inv_cancel₀ hr) o
  rw [Polynomial.dickson_one_one_eq_chebyshev_T] at hdickson
  simpa [Polynomial.eval_comp, div_eq_inv_mul] using hdickson

/-- The square of the `j`-th denominator by the double angle. -/
theorem cutPower_butterworthQ (o j : ℕ) (x y : ℝ) :
    cutPower (butterworthQ o j) x y = x ^ 2 + y ^ 2 + 2 * x * y * Real.cos ((2 * j + 1) * Real.pi / (2 * o)) := by
  have hdouble : (2 * j + 1) * Real.pi / (2 * o) = 2 * ((2 * j + 1) * Real.pi / (4 * o)) := by ring
  rw [hdouble, Real.cos_two_mul, cutPower, butterworthQ, div_pow, div_div_eq_mul_div]
  ring

theorem prod_cutPower_butterworthQ {o : ℕ} (ho : 1 ≤ o) {x y : ℝ} (hx : 0 < x) (hy : 0 < y) :
    ∏ j ∈ Finset.range o, cutPower (butterworthQ o j) x y = (x ^ o) ^ 2 + (y ^ o) ^ 2 := by
  have hr : -(x / y) ≠ 0 := neg_ne_zero.2 (by positivity)
  have hterm : ∀ j : ℕ, cutPower (butterworthQ o j) x y =
      -(x * y) * (2 * ((-(x / y) + (-(x / y))⁻¹) / 2 - Real.cos ((2 * j + 1) * Real.pi / (2 * o)))) := fun j => by
    rw [cutPower_butterworthQ]
    field_simp
    ring
  rw [Finset.prod_congr rfl fun j _ => hterm j, Finset.prod_mul_distrib, ← eval_T_eq_prod ho, eval_T_add_inv hr,
    Finset.prod_const, Finset.card_range, mul_add, ← mul_pow, ← mul_pow, pow_right_comm, pow_right_comm y]
  congr 2 <;> field_simp

/-! ### The gain of a stage -/

/-- What a filter passes of the part `a` against the part `b`. -/
noncomputable def share (a b : ℝ) : ℝ := a / √(a ^ 2 + b ^ 2)

theorem share_self {a : ℝ} (ha : 0 < a) : share a a = 1 / √2 := by
  rw [share, ← two_mul, Real.sqrt_mul two_pos.le, Real.sqrt_sq ha.le, div_mul_cancel_right₀ ha.ne', one_div]

theorem share_scaled {k : ℝ} (hk : 0 < k) (a b : ℝ) : share (k * a) (k * b) = share a b := by
  rw [share, share, mul_pow, mul_pow, ← mul_add, Real.sqrt_mul (sq_nonneg k), Real.sqrt_sq hk.le,
    mul_div_mul_left _ _ hk.ne']

/-- The share grows with its part and falls with the other. -/
theorem share_mono {a a' b b' : ℝ} (ha : 0 < a) (haa : a ≤ a') (hb : 0 < b') (hbb : b' ≤ b) :
    share a b ≤ share a' b' := by
  have ha' : 0 < a' := ha.trans_le haa
  have hb0 : 0 < b := hb.trans_le hbb
  have hcross : a * b' ≤ a' * b := mul_le_mul haa hbb hb.le ha'.le
  rw [share, share, div_le_div_iff₀ (by positivity) (by positivity)]
  refine abs_le_of_sq_le_sq' ?_ (by positivity) |>.2
  rw [mul_pow, mul_pow, Real.sq_sqrt (by positivity), Real.sq_sqrt (by positivity)]
  nlinarith [mul_self_le_mul_self (by positivity) hcross]

section
variable {fc fs : ℝ} (hf : 0 < fc) (hfs : fc < fs / 2)
include hf hfs

theorem lowPart_pos {w : ℝ} (h0 : 0 < w) (hpi : w < Real.pi) : 0 < lowPart (Real.tan (Real.pi * fc / fs)) w := by
  have hn := cut_tan_pos hf hfs
  have hcos := Real.cos_lt_cos_of_nonneg_of_le_pi h0.le le_rfl hpi
  rw [Real.cos_pi] at hcos
  exact mul_pos (by positivity) (by linarith)

end

theorem highPart_pos {w : ℝ} (h0 : 0 < w) (hpi : w < Real.pi) : 0 < highPart w := by
  have hcos := Real.cos_lt_cos_of_nonneg_of_le_pi le_rfl hpi.le h0
  rw [Real.cos_zero] at hcos
  exact sub_pos.2 hcos

section
variable {fc fs : ℝ} (hf : 0 < fc) (hfs : fc < fs / 2) {o : ℕ} (ho : 1 ≤ o)
include hf hfs ho

/-- The square of the denominator of a stage. -/
theorem prod_sqrt_cutPower {w : ℝ} (h0 : 0 < w) (hpi : w < Real.pi) :
    ∏ j ∈ Finset.range o, √(cutPower (butterworthQ o j) (lowPart (Real.tan (Real.pi * fc / fs)) w) (highPart w)) =
      √((lowPart (Real.tan (Real.pi * fc / fs)) w ^ o) ^ 2 + (highPart w ^ o) ^ 2) := by
  have hx := lowPart_pos hf hfs h0 hpi
  have hy := highPart_pos h0 hpi
  rw [← prod_cutPower_butterworthQ ho hx hy, Real.sqrt_prod]
  intro j _
  unfold cutPower
  positivity

theorem lowcutMag_eq {w : ℝ} (h0 : 0 < w) (hpi : w < Real.pi) :
    lowcutMag fc fs o w = share (highPart w ^ o) (lowPart (Real.tan (Real.pi * fc / fs)) w ^ o) := by
  rw [lowcutMag, Finset.prod_congr rfl fun j hj =>
    realMag_hpIdeal w (cut_tan_pos hf hfs) (butterworthQ_pos (Finset.mem_range.1 hj)), Finset.prod_div_distrib,
    prod_sqrt_cutPower hf hfs ho h0 hpi, Finset.prod_const, Finset.card_range, share, add_comm]

theorem highcutMag_eq {w : ℝ} (h0 : 0 < w) (hpi : w < Real.pi) :
    highcutMag fc fs o w = share (lowPart (Real.tan (Real.pi * fc / fs)) w ^ o) (highPart w ^ o) := by
  rw [highcutMag, Finset.prod_congr rfl fun j hj =>
    realMag_lpIdeal w (cut_tan_pos hf hfs) (butterworthQ_pos (Finset.mem_range.1 hj)), Finset.prod_div_distrib,
    prod_sqrt_cutPower hf hfs ho h0 hpi, Finset.prod_const, Finset.card_range, share]

/-- At the cutoff a stage passes the same share of both parts. -/
theorem cutMag_at_cutoff :
    lowcutMag fc fs o (2 * Real.pi * fc / fs) = 1 / √2 ∧ highcutMag fc fs o (2 * Real.pi * fc / fs) = 1 / √2 := by
  obtain ⟨hlo, hhi⟩ := cut_angle hf hfs
  have hdouble : 2 * Real.pi * fc / fs = 2 * (Real.pi * fc / fs) := by ring
  obtain ⟨hparts, hpos⟩ := parts_at_cutoff hf hfs
  have h0 : 0 < 2 * Real.pi * fc / fs := by linarith
  have hpi : 2 * Real.pi * fc / fs < Real.pi := by linarith
  rw [lowcutMag_eq hf hfs ho h0 hpi, highcutMag_eq hf hfs ho h0 hpi, hparts]
  exact ⟨share_self (by positivity), share_self (by positivity)⟩

theorem cutMag_mono {w1 w2 : ℝ} (h0 : 0 < w1) (hle : w1 ≤ w2) (hpi : w2 < Real.pi) :
    lowcutMag fc fs o w1 ≤ lowcutMag fc fs o w2 ∧ highcutMag fc fs o w2 ≤ highcutMag fc fs o w1 := by
  have hcos : Real.cos w2 ≤ Real.cos w1 := Real.cos_le_cos_of_nonneg_of_le_pi h0.le hpi.le hle
  have hx1 := lowPart_pos hf hfs h0 (hle.trans_lt hpi)
  have hx2 := lowPart_pos hf hfs (h0.trans_le hle) hpi
  have hy1 := highPart_pos h0 (hle.trans_lt hpi)
  have hy2 := highPart_pos (h0.trans_le hle) hpi
  have hx : lowPart (Real.tan (Real.pi * fc / fs)) w2 ^ o ≤ lowPart (Real.tan (Real.pi * fc / fs)) w1 ^ o := by
    unfold lowPart at *; gcongr
  have hy : highPart w1 ^ o ≤ highPart w2 ^ o := by unfold highPart at *; gcongr
  rw [lowcutMag_eq hf hfs ho h0 (hle.trans_lt hpi), lowcutMag_eq hf hfs ho (h0.trans_le hle) hpi,
    highcutMag_eq hf hfs ho h0 (hle.trans_lt hpi), highcutMag_eq hf hfs ho (h0.trans_le hle) hpi]
  exact ⟨share_mono (by positivity) hy (by positivity) hx, share_mono (by positivity) hx (by positivity) hy⟩

end

/-! ### The slopes -/

/-- The denominator of a stage at `e^(iω)`. -/
noncomputable def stageNorm (n : ℝ) (o : ℕ) (w : ℝ) : ℝ := √((highPart w ^ o) ^ 2 + (lowPart n w ^ o) ^ 2)

theorem share_high_eq (n : ℝ) (o : ℕ) (w : ℝ) :
    share (highPart w ^ o) (lowPart n w ^ o) = highPart w ^ o / stageNorm n o w := rfl

theorem continuous_stageNorm (n : ℝ) (o : ℕ) : Continuous (stageNorm n o) := by
  unfold stageNorm highPart lowPart
  fun_prop

theorem stageNorm_zero_pos {n : ℝ} (hn : 0 < n) (o : ℕ) : 0 < stageNorm n o 0 := by
  rw [stageNorm, lowPart_zero]
  positivity

theorem highPart_double (w : ℝ) : highPart (2 * w) = 2 * (1 + Real.cos w) * highPart w := by
  rw [highPart, highPart, Real.cos_two_mul]
  ring

/-- Towards 0 Hz the high part falls by 4 per octave, and the denominator of a stage is constant. -/
theorem tendsto_lowcut_octave {n : ℝ} (hn : 0 < n) (o : ℕ) :
    Filter.Tendsto (fun w => (2 * (1 + Real.cos (w / 2))) ^ o * (stageNorm n o (w / 2) / stageNorm n o w))
      (nhds 0) (nhds (2 ^ (2 * o))) := by
  have hpos := stageNorm_zero_pos hn o
  have hcos : Filter.Tendsto (fun w : ℝ => (2 * (1 + Real.cos (w / 2))) ^ o) (nhds 0) (nhds (2 ^ (2 * o))) := by
    have hcont : Continuous fun w : ℝ => (2 * (1 + Real.cos (w / 2))) ^ o := by fun_prop
    have h0 := hcont.tendsto 0
    rwa [zero_div, Real.cos_zero, show (2 : ℝ) * (1 + 1) = 2 ^ 2 by norm_num, ← pow_mul] at h0
  have hnorm : Filter.Tendsto (fun w => stageNorm n o (w / 2) / stageNorm n o w) (nhds 0) (nhds 1) := by
    have hhalf := ((continuous_stageNorm n o).comp (continuous_id.div_const 2)).tendsto 0
    have h0 := hhalf.div ((continuous_stageNorm n o).tendsto 0) (by simpa using hpos.ne')
    rwa [Function.comp_apply, id_eq, zero_div, div_self hpos.ne'] at h0
  simpa using hcos.mul hnorm

/-- Far above its cutoff, where only the high part counts, a stage's denominator grows as its square. -/
theorem tendsto_sqrt_quadratic_ratio {a d : ℝ} (ha : 0 < a) (hd : 0 ≤ d) :
    Filter.Tendsto (fun u : ℝ => √(a ^ 2 + (d * u) ^ 2) / √(a ^ 2 + u ^ 2)) Filter.atTop (nhds d) := by
  have hsplit : ∀ u : ℝ, d ^ 2 + a ^ 2 * (1 - d ^ 2) / (a ^ 2 + u ^ 2) = (a ^ 2 + (d * u) ^ 2) / (a ^ 2 + u ^ 2) :=
    fun u => by
      have : a ^ 2 + u ^ 2 ≠ 0 := by positivity
      field_simp
      ring
  have hgrows : Filter.Tendsto (fun u : ℝ => a ^ 2 + u ^ 2) Filter.atTop Filter.atTop :=
    Filter.tendsto_atTop_add_const_left _ _ (Filter.tendsto_pow_atTop two_ne_zero)
  have hratio := (hgrows.const_div_atTop (a ^ 2 * (1 - d ^ 2))).const_add (d ^ 2)
  rw [add_zero] at hratio
  have hsqrt := (hratio.congr hsplit).sqrt
  rw [Real.sqrt_sq hd] at hsqrt
  exact hsqrt.congr fun u => Real.sqrt_div (by positivity) _

section
variable {fc fs : ℝ} (hf : 0 < fc) (hfs : fc < fs / 2) {o : ℕ} (ho : 1 ≤ o)
include hf hfs ho

/-- Far below its cutoff the low-cut stage falls by `2^(2o)` per octave. -/
theorem lowcutMag_slope :
    Filter.Tendsto (fun w => lowcutMag fc fs o w / lowcutMag fc fs o (w / 2))
      (nhdsWithin 0 (Set.Ioi 0)) (nhds (2 ^ (2 * o))) := by
  refine ((tendsto_lowcut_octave (cut_tan_pos hf hfs) o).mono_left nhdsWithin_le_nhds).congr' ?_
  filter_upwards [Ioo_mem_nhdsGT Real.pi_pos] with w hw
  obtain ⟨h0, hpi⟩ := hw
  have hy : 0 < highPart (w / 2) := highPart_pos (by linarith) (by linarith)
  have hdouble := highPart_double (w / 2)
  rw [mul_div_cancel₀ w two_ne_zero] at hdouble
  rw [lowcutMag_eq hf hfs ho h0 hpi, lowcutMag_eq hf hfs ho (by linarith) (by linarith), share_high_eq,
    share_high_eq, hdouble, mul_pow _ (highPart _)]
  generalize 2 * (1 + Real.cos (w / 2)) = r
  field_simp

/-- The high-cut stage at the prewarped frequency `t = tan(ω/2)`. -/
theorem highcutMag_arctan {t : ℝ} (ht : 0 < t) :
    highcutMag fc fs o (2 * Real.arctan t) = share ((Real.tan (Real.pi * fc / fs) ^ 2) ^ o) ((t ^ 2) ^ o) := by
  have hlow : lowPart (Real.tan (Real.pi * fc / fs)) (2 * Real.arctan t) =
      2 / (1 + t ^ 2) * Real.tan (Real.pi * fc / fs) ^ 2 := by
    rw [lowPart, Real.cos_two_mul, Real.cos_sq_arctan]
    ring
  have hhigh : highPart (2 * Real.arctan t) = 2 / (1 + t ^ 2) * t ^ 2 := by
    rw [highPart, Real.cos_two_mul, Real.cos_sq_arctan]
    field_simp
    ring
  have hpos : 0 < Real.arctan t := Real.arctan_pos.2 ht
  have hlt := Real.arctan_lt_pi_div_two t
  rw [highcutMag_eq hf hfs ho (by linarith) (by linarith), hlow, hhigh, mul_pow, mul_pow,
    share_scaled (by positivity)]

/-- Far above its cutoff the high-cut stage falls by `2^(2o)` per octave of the prewarped frequency. -/
theorem highcutMag_slope :
    Filter.Tendsto (fun t => highcutMag fc fs o (2 * Real.arctan t) / highcutMag fc fs o (2 * Real.arctan (2 * t)))
      Filter.atTop (nhds (2 ^ (2 * o))) := by
  have hn := cut_tan_pos hf hfs
  have hratio := tendsto_sqrt_quadratic_ratio (a := (Real.tan (Real.pi * fc / fs) ^ 2) ^ o) (d := 2 ^ (2 * o))
    (by positivity) (by positivity)
  have hgrows : Filter.Tendsto (fun t : ℝ => (t ^ 2) ^ o) Filter.atTop Filter.atTop :=
    (Filter.tendsto_pow_atTop (by omega)).comp (Filter.tendsto_pow_atTop two_ne_zero)
  refine (hratio.comp hgrows).congr' ?_
  filter_upwards [Filter.eventually_gt_atTop 0] with t ht
  rw [highcutMag_arctan hf hfs ho ht, highcutMag_arctan hf hfs ho (by linarith), share, share, Function.comp_apply,
    mul_pow 2 t, mul_pow _ (t ^ 2), ← pow_mul 2]
  field_simp

end

/-! ### The product of the quality factors, and an octave in decibels -/

theorem prod_butterworthQ {o : ℕ} (ho : 1 ≤ o) : ∏ j ∈ Finset.range o, butterworthQ o j = 1 / √2 := by
  have hprod := prod_cutPower_butterworthQ ho one_pos one_pos
  have hterm : ∀ j, cutPower (butterworthQ o j) 1 1 = (butterworthQ o j ^ 2)⁻¹ := fun j => by
    rw [cutPower]
    ring
  rw [Finset.prod_congr rfl fun j _ => hterm j, Finset.prod_inv_distrib, Finset.prod_pow, one_pow, one_pow,
    inv_eq_iff_eq_inv, one_add_one_eq_two] at hprod
  have hpos : 0 ≤ ∏ j ∈ Finset.range o, butterworthQ o j :=
    Finset.prod_nonneg fun j hj => (butterworthQ_pos (Finset.mem_range.1 hj)).le
  rw [← Real.sqrt_sq hpos, hprod, Real.sqrt_inv, one_div]

/-- A factor of 2 is 6 dB to a hundredth, by `10^3 ≤ 2^10` and `2^93 ≤ 10^28`. -/
theorem logb_two_bounds : 3 / 10 ≤ Real.logb 10 2 ∧ Real.logb 10 2 ≤ 28 / 93 := by
  have hten : Real.logb 10 10 = 1 := Real.logb_self_eq_one (by norm_num)
  have hlo : Real.logb 10 (10 ^ 3) ≤ Real.logb 10 (2 ^ 10) :=
    (Real.logb_le_logb (by norm_num) (by norm_num) (by norm_num)).2 (by norm_num)
  have hhi : Real.logb 10 (2 ^ 93) ≤ Real.logb 10 (10 ^ 28) :=
    (Real.logb_le_logb (by norm_num) (by norm_num) (by norm_num)).2 (by norm_num)
  rw [Real.logb_pow, Real.logb_pow, hten] at hlo hhi
  push_cast at hlo hhi
  constructor <;> linarith

theorem decibels_octave (o : ℕ) : |decibels (2 ^ (2 * o)) - 12 * o| ≤ 1 / 20 * o := by
  obtain ⟨hlo, hhi⟩ := logb_two_bounds
  have ho : (0 : ℝ) ≤ o := o.cast_nonneg
  rw [decibels, Real.logb_pow, abs_le]
  push_cast
  constructor <;> nlinarith

end Sys2Proof.Ideal

open Sys2Proof Sys2Proof.Machine Sys2Proof.Ideal

/-- Settles O59: the stages pass the shares of a Butterworth filter, equal at the cutoff. -/
theorem idealCutStages : Obligations.IdealCutStages := by
  intro o ho _
  refine ⟨prod_butterworthQ ho, decibels_octave o, fun fc fs hf hfs => ?_⟩
  obtain ⟨hlowcut, hhighcut⟩ := cutMag_at_cutoff hf hfs ho
  exact ⟨hlowcut, hhighcut, fun _ _ => cutMag_mono hf hfs ho, lowcutMag_slope hf hfs ho, highcutMag_slope hf hfs ho⟩
end

section
/-! The ideal peaking design (41_coefficient_design.md R178, R185): its gain depends on the square of one real number,
the distance of `ω` from the centre. -/

namespace Sys2Proof.Ideal

/-! ### The magnitude -/

/-- The half-width of the ideal peaking design (41_coefficient_design.md R178). -/
noncomputable def peakAlpha (f q fs : ℝ) : ℝ := Real.sin (2 * Real.pi * f / fs) / (2 * q)

/-- The square of a polynomial of the peaking design of half-width `k`, up to a factor common to both. -/
noncomputable def peakPower (k f fs w : ℝ) : ℝ :=
  (Real.cos w - Real.cos (2 * Real.pi * f / fs)) ^ 2 + k ^ 2 * Real.sin w ^ 2

theorem realMag_pkIdeal {f q fs : ℝ} (g w : ℝ) (hα : 0 < peakAlpha f q fs) :
    realMag (pkIdeal f g q fs) w =
      √(peakPower (peakAlpha f q fs * 10 ^ (g / 40)) f fs w) /
        √(peakPower (peakAlpha f q fs / 10 ^ (g / 40)) f fs w) := by
  have ha : (0 : ℝ) < 10 ^ (g / 40) := by positivity
  rw [realMag_eq]
  simp only [pkIdeal]
  rw [← peakAlpha]
  set α := peakAlpha f q fs
  set a := (10 : ℝ) ^ (g / 40)
  have hd : 0 < 1 + α / a := by positivity
  have hnum : circlePower ((1 + α * a) / (1 + α / a)) (-2 * Real.cos (2 * Real.pi * f / fs) / (1 + α / a))
      ((1 - α * a) / (1 + α / a)) w = (2 / (1 + α / a)) ^ 2 * peakPower (α * a) f fs w := by
    unfold circlePower peakPower; ring
  have hden : circlePower 1 (-2 * Real.cos (2 * Real.pi * f / fs) / (1 + α / a)) ((1 - α / a) / (1 + α / a)) w =
      (2 / (1 + α / a)) ^ 2 * peakPower (α / a) f fs w := by
    unfold circlePower peakPower; field_simp; ring
  rw [hnum, hden, sqrt_div_sqrt_of_scaled (by positivity)]

section
variable {f fs : ℝ} (hf : 0 < f) (hfs : f < fs / 2)
include hf hfs

theorem centre_bounds : 0 < 2 * Real.pi * f / fs ∧ 2 * Real.pi * f / fs < Real.pi := by
  obtain ⟨hlo, hhi⟩ := cut_angle hf hfs
  have hdouble : 2 * Real.pi * f / fs = 2 * (Real.pi * f / fs) := by ring
  constructor <;> linarith

theorem sin_centre_pos : 0 < Real.sin (2 * Real.pi * f / fs) :=
  Real.sin_pos_of_pos_of_lt_pi (centre_bounds hf hfs).1 (centre_bounds hf hfs).2

theorem cos_centre_bounds : -1 < Real.cos (2 * Real.pi * f / fs) ∧ Real.cos (2 * Real.pi * f / fs) < 1 := by
  obtain ⟨hlo, hhi⟩ := centre_bounds hf hfs
  rw [← Real.cos_pi, ← Real.cos_zero]
  exact ⟨Real.cos_lt_cos_of_nonneg_of_le_pi hlo.le le_rfl hhi, Real.cos_lt_cos_of_nonneg_of_le_pi le_rfl hhi.le hlo⟩

theorem peakAlpha_pos {q : ℝ} (hq : 0 < q) : 0 < peakAlpha f q fs :=
  div_pos (sin_centre_pos hf hfs) (by positivity)

/-- At the centre only the half-widths count (41_coefficient_design.md R185). -/
theorem realMag_pkIdeal_centre {q : ℝ} (g : ℝ) (hq : 0 < q) :
    realMag (pkIdeal f g q fs) (2 * Real.pi * f / fs) = (10 : ℝ) ^ (g / 20) := by
  have hα := peakAlpha_pos hf hfs hq
  have hsin := sin_centre_pos hf hfs
  have hsquare : (10 : ℝ) ^ (g / 20) = (10 ^ (g / 40)) ^ 2 := by
    rw [← Real.rpow_mul_natCast (by norm_num)]
    congr 1
    push_cast
    ring
  have hcentre : ∀ k : ℝ, 0 < k → √(peakPower k f fs (2 * Real.pi * f / fs)) = k * Real.sin (2 * Real.pi * f / fs) :=
    fun k hk => by
      rw [peakPower, sub_self, zero_pow two_ne_zero, zero_add, ← mul_pow, Real.sqrt_sq (by positivity)]
  rw [realMag_pkIdeal g _ hα, hcentre _ (by positivity), hcentre _ (by positivity), hsquare]
  field_simp

/-- Where `sin ω = 0` the half-widths do not count (41_coefficient_design.md R185). -/
theorem realMag_pkIdeal_end {q w : ℝ} (g : ℝ) (hq : 0 < q) (hsin : Real.sin w = 0)
    (hcos : Real.cos w - Real.cos (2 * Real.pi * f / fs) ≠ 0) : realMag (pkIdeal f g q fs) w = 1 := by
  have hend : ∀ k : ℝ, peakPower k f fs w = (Real.cos w - Real.cos (2 * Real.pi * f / fs)) ^ 2 := fun k => by
    rw [peakPower, hsin]
    ring
  rw [realMag_pkIdeal g _ (peakAlpha_pos hf hfs hq), hend, hend, div_self (Real.sqrt_ne_zero'.2 (by positivity))]

/-- With gain 0 the magnitude is 1 wherever it is defined (41_coefficient_design.md R185). -/
theorem pkIdeal_flat {q : ℝ} (hq : 0 < q) :
    (pkIdeal f 0 q fs).b0 = 1 ∧ (pkIdeal f 0 q fs).b1 = (pkIdeal f 0 q fs).a1 ∧
      (pkIdeal f 0 q fs).b2 = (pkIdeal f 0 q fs).a2 ∧
      ∀ w, realDen (pkIdeal f 0 q fs) w ≠ 0 → realMag (pkIdeal f 0 q fs) w = 1 := by
  obtain ⟨hb0, hb2⟩ := pkIdeal_gain_zero (sin_centre_pos hf hfs).le hq
  have hb1 : (pkIdeal f 0 q fs).b1 = (pkIdeal f 0 q fs).a1 := rfl
  refine ⟨hb0, hb1, hb2, fun w hw => ?_⟩
  have hsame : realNum (pkIdeal f 0 q fs) w = realDen (pkIdeal f 0 q fs) w := by
    rw [realNum, realDen, hb0, hb1, hb2, Complex.ofReal_one]
  rw [realMag, hsame, div_self (norm_ne_zero_iff.2 hw)]

end

/-! ### The distance from the centre -/

/-- The place of `ω` in (0, π) relative to the centre, whose cosine is `c`: 0 there, and falling. -/
noncomputable def peakDistance (c w : ℝ) : ℝ := (Real.cos w - c) / Real.sin w

/-- The sine changes by less than the sine of the step, over a step inside (0, π). -/
theorem abs_sin_sub_sin_lt {w1 w2 : ℝ} (h0 : 0 < w1) (hlt : w1 < w2) (hpi : w2 < Real.pi) :
    |Real.sin w2 - Real.sin w1| < Real.sin (w2 - w1) := by
  have hsin1 := Real.sin_pos_of_pos_of_lt_pi h0 (hlt.trans hpi)
  have hsin2 := Real.sin_pos_of_pos_of_lt_pi (h0.trans hlt) hpi
  have hstep : 0 < Real.sin (w2 - w1) := Real.sin_pos_of_pos_of_lt_pi (by linarith) (by linarith)
  have hcos1 : Real.cos w1 < 1 :=
    Real.cos_zero ▸ Real.cos_lt_cos_of_nonneg_of_le_pi le_rfl (hlt.trans hpi).le h0
  have hcos2 : -1 < Real.cos w2 :=
    Real.cos_pi ▸ Real.cos_lt_cos_of_nonneg_of_le_pi (h0.trans hlt).le le_rfl hpi
  have hcosStep := sub_nonneg.2 (Real.cos_le_one (w2 - w1))
  have hadd := Real.sin_add w1 (w2 - w1)
  have hsub := Real.sin_sub w2 (w2 - w1)
  rw [add_sub_cancel] at hadd
  rw [sub_sub_cancel] at hsub
  rw [abs_lt]
  constructor
  · have := mul_pos hstep (neg_lt_iff_pos_add.1 hcos2)
    have := mul_nonneg hsin2.le hcosStep
    linarith
  · have := mul_pos hstep (sub_pos.2 hcos1)
    have := mul_nonneg hsin1.le hcosStep
    linarith

theorem peakDistance_lt {c w1 w2 : ℝ} (hc : |c| ≤ 1) (h0 : 0 < w1) (hlt : w1 < w2) (hpi : w2 < Real.pi) :
    peakDistance c w2 < peakDistance c w1 := by
  have hsin1 := Real.sin_pos_of_pos_of_lt_pi h0 (hlt.trans hpi)
  have hsin2 := Real.sin_pos_of_pos_of_lt_pi (h0.trans hlt) hpi
  have hstep := abs_sin_sub_sin_lt h0 hlt hpi
  have hcentre : c * (Real.sin w2 - Real.sin w1) < Real.sin (w2 - w1) :=
    calc c * (Real.sin w2 - Real.sin w1) ≤ |c| * |Real.sin w2 - Real.sin w1| := (le_abs_self _).trans (abs_mul _ _).le
      _ ≤ |Real.sin w2 - Real.sin w1| := mul_le_of_le_one_left (abs_nonneg _) hc
      _ < Real.sin (w2 - w1) := hstep
  rw [Real.sin_sub] at hcentre
  rw [peakDistance, peakDistance, div_lt_div_iff₀ hsin2 hsin1]
  linarith

/-! ### The deviation -/

/-- The decibels between two shelves of heights `p` and `r` at the square `u` of the distance. -/
noncomputable def shelfGap (p r u : ℝ) : ℝ := |Real.logb 10 (u + p) - Real.logb 10 (u + r)|

theorem shelfGap_lt {p r u v : ℝ} (hp : 0 < p) (hr : 0 < r) (hne : p ≠ r) (hu : 0 ≤ u) (huv : u < v) :
    shelfGap p r v < shelfGap p r u := by
  wlog hlt : r < p generalizing p r with hswap
  · have := hswap hr hp hne.symm (lt_of_le_of_ne (not_lt.1 hlt) hne)
    rwa [shelfGap, shelfGap, abs_sub_comm, abs_sub_comm (Real.logb 10 (u + r))] at this
  have hten : (1 : ℝ) < 10 := by norm_num
  have hgap : ∀ x : ℝ, 0 ≤ x → shelfGap p r x = Real.logb 10 ((x + p) / (x + r)) := fun x hx => by
    have hle : Real.logb 10 (x + r) ≤ Real.logb 10 (x + p) := Real.logb_le_logb_of_le hten (by positivity) (by linarith)
    rw [shelfGap, abs_of_nonneg (by linarith), Real.logb_div (by positivity) (by positivity)]
  rw [hgap u hu, hgap v (hu.trans huv.le)]
  have hv : 0 ≤ v := hu.trans huv.le
  refine Real.logb_lt_logb hten (by positivity) ?_
  rw [div_lt_div_iff₀ (by positivity) (by positivity)]
  nlinarith

theorem deviation_eq {f q fs w : ℝ} (g : ℝ) (hα : 0 < peakAlpha f q fs) (h0 : 0 < w) (hpi : w < Real.pi) :
    |decibels (realMag (pkIdeal f g q fs) w)| =
      10 * shelfGap ((peakAlpha f q fs * 10 ^ (g / 40)) ^ 2) ((peakAlpha f q fs / 10 ^ (g / 40)) ^ 2)
        (peakDistance (Real.cos (2 * Real.pi * f / fs)) w ^ 2) := by
  have hsin : 0 < Real.sin w := Real.sin_pos_of_pos_of_lt_pi h0 hpi
  have hscale : ∀ k : ℝ, peakPower k f fs w =
      Real.sin w ^ 2 * (peakDistance (Real.cos (2 * Real.pi * f / fs)) w ^ 2 + k ^ 2) := fun k => by
    rw [peakPower, peakDistance]
    field_simp
  have hhalf : ∀ x : ℝ, 0 < x → Real.logb 10 √x = Real.logb 10 x / 2 := fun x hx => by
    rw [Real.logb, Real.log_sqrt hx.le, Real.logb, div_right_comm]
  rw [realMag_pkIdeal g w hα, hscale, hscale, sqrt_div_sqrt_of_scaled hsin, decibels,
    Real.logb_div (by positivity) (by positivity), hhalf _ (by positivity), hhalf _ (by positivity), shelfGap,
    ← sub_div, abs_mul, abs_div, abs_two, abs_of_pos (by norm_num : (0 : ℝ) < 20)]
  ring

theorem halfWidths_ne {α g : ℝ} (hα : 0 < α) (hg : g ≠ 0) : (α * 10 ^ (g / 40)) ^ 2 ≠ (α / 10 ^ (g / 40)) ^ 2 := by
  have ha : (0 : ℝ) < 10 ^ (g / 40) := by positivity
  intro h
  have hunit : (10 : ℝ) ^ (g / 40) * 10 ^ (g / 40) = 1 := by
    have hwidths := (sq_eq_sq₀ (by positivity) (by positivity)).1 h
    field_simp at hwidths
    linarith
  have hgain := Real.logb_rpow (b := 10) (x := g / 40 + g / 40) (by norm_num) (by norm_num)
  rw [Real.rpow_add (by norm_num), hunit, Real.logb_one] at hgain
  exact hg (by linarith)

section
variable {f fs q g : ℝ} (hf : 0 < f) (hfs : f < fs / 2) (hq : 0 < q) (hg : g ≠ 0)
include hf hfs hq hg

/-- The deviation is smaller where the distance from the centre is larger (41_coefficient_design.md R185). -/
theorem deviation_lt_of_distance {v w : ℝ} (hv : 0 < v ∧ v < Real.pi) (hw : 0 < w ∧ w < Real.pi)
    (h : |peakDistance (Real.cos (2 * Real.pi * f / fs)) v| < |peakDistance (Real.cos (2 * Real.pi * f / fs)) w|) :
    |decibels (realMag (pkIdeal f g q fs) w)| < |decibels (realMag (pkIdeal f g q fs) v)| := by
  have hα := peakAlpha_pos hf hfs hq
  rw [deviation_eq g hα hv.1 hv.2, deviation_eq g hα hw.1 hw.2]
  exact mul_lt_mul_of_pos_left
    (shelfGap_lt (by positivity) (by positivity) (halfWidths_ne hα hg) (sq_nonneg _) (sq_lt_sq.2 h)) (by norm_num)

theorem deviation_above_centre {w1 w2 : ℝ} (h0 : 2 * Real.pi * f / fs ≤ w1) (hlt : w1 < w2) (hpi : w2 < Real.pi) :
    |decibels (realMag (pkIdeal f g q fs) w2)| < |decibels (realMag (pkIdeal f g q fs) w1)| := by
  obtain ⟨hpos, -⟩ := centre_bounds hf hfs
  have hdist := peakDistance_lt (Real.abs_cos_le_one (2 * Real.pi * f / fs)) (hpos.trans_le h0) hlt hpi
  have hsin := Real.sin_pos_of_pos_of_lt_pi (hpos.trans_le h0) (hlt.trans hpi)
  have hle : peakDistance (Real.cos (2 * Real.pi * f / fs)) w1 ≤ 0 := div_nonpos_of_nonpos_of_nonneg
    (sub_nonpos.2 (Real.cos_le_cos_of_nonneg_of_le_pi hpos.le (hlt.trans hpi).le h0)) hsin.le
  refine deviation_lt_of_distance hf hfs hq hg ⟨by linarith, by linarith⟩ ⟨by linarith, hpi⟩ ?_
  rw [abs_of_nonpos hle, abs_of_nonpos (by linarith)]
  linarith

theorem deviation_below_centre {w1 w2 : ℝ} (h0 : 0 < w1) (hlt : w1 < w2) (hle : w2 ≤ 2 * Real.pi * f / fs) :
    |decibels (realMag (pkIdeal f g q fs) w1)| < |decibels (realMag (pkIdeal f g q fs) w2)| := by
  obtain ⟨-, hpi⟩ := centre_bounds hf hfs
  have hdist := peakDistance_lt (Real.abs_cos_le_one (2 * Real.pi * f / fs)) h0 hlt (hle.trans_lt hpi)
  have hsin := Real.sin_pos_of_pos_of_lt_pi (h0.trans hlt) (hle.trans_lt hpi)
  have hnonneg : 0 ≤ peakDistance (Real.cos (2 * Real.pi * f / fs)) w2 := div_nonneg
    (sub_nonneg.2 (Real.cos_le_cos_of_nonneg_of_le_pi (h0.trans hlt).le hpi.le hle)) hsin.le
  refine deviation_lt_of_distance hf hfs hq hg ⟨by linarith, by linarith⟩ ⟨h0, by linarith⟩ ?_
  rw [abs_of_nonneg hnonneg, abs_of_nonneg (by linarith)]
  exact hdist

end

end Sys2Proof.Ideal

open Sys2Proof Sys2Proof.Machine Sys2Proof.Ideal

/-- Settles O60: the gain of the peak by the distance from its centre. -/
theorem idealPeakGains : Obligations.IdealPeakGains := by
  intro f g q fs hf hfs hq
  obtain ⟨hlo, hhi⟩ := cos_centre_bounds hf hfs
  refine ⟨realMag_pkIdeal_centre hf hfs g hq, realMag_pkIdeal_end hf hfs g hq Real.sin_zero ?_,
    realMag_pkIdeal_end hf hfs g hq Real.sin_pi ?_, pkIdeal_flat hf hfs hq, fun hg =>
      ⟨fun _ _ => deviation_above_centre hf hfs hq hg, fun _ _ => deviation_below_centre hf hfs hq hg⟩⟩
  · rw [Real.cos_zero]
    linarith
  · rw [Real.cos_pi]
    linarith
end

section
/-! MAG_AT: the cases of `magEval` (42_magnitude_response.md R203, R205). -/

namespace Sys2Proof.Machine

/-! ### `magEval` -/

theorem isNaN_of_toNat_le {v : Word} (h : v.toNat ≤ 0x7F800000) : isNaN v = false :=
  decide_eq_false (not_lt.2 ((Nat.mod_le _ _).trans h))

/-- With no section included the magnitude is exactly 1 (42_magnitude_response.md R203). -/
theorem magEval_of_none {s : State} (h : includedSections s = []) (f : Word) : magEval s f = f32One := by
  rw [magEval, h]

/-- With sections included the magnitude is theirs (42_magnitude_response.md R203). -/
theorem magEval_of_included {s : State} (h : includedSections s ≠ []) (f : Word) :
    magEval s f = nxMag s.build.nx (includedSections s) f s.sampleRate := by
  cases hsecs : includedSections s with
  | nil => exact absurd hsecs h
  | cons c cs => rw [magEval, hsecs]

/-! ### MAG_AT -/

/-- MAG_AT at a finite frequency (42_magnitude_response.md R205). -/
theorem exec_magAt_of_finite {s : State} (hf : isFinite s.arg0 = true) :
    exec .magAt s = .next { s with
      result := magEval s s.arg0
      status := if isNaN (magEval s s.arg0) then s.status ||| 0x10 else s.status } := by
  rw [exec_magAt, noteNonFinite_eq, hf]
  rfl

/-- A magnitude that is no NaN is left with no flag. -/
theorem exec_magAt_of_number {s : State} (hf : isFinite s.arg0 = true) {m : Word} (hm : magEval s s.arg0 = m)
    (hnan : isNaN m = false) : exec .magAt s = .next { s with result := m } := by
  rw [exec_magAt_of_finite hf, hm, hnan]
  rfl

end Sys2Proof.Machine

open Sys2Proof Sys2Proof.Machine

/-- Settles O53: both quadratics are the model's test at a root of unity. -/
theorem poleTestIsExact : Obligations.PoleTestIsExact := fun c f _ _ _ _ hfs =>
  ⟨sectionHasPole_iff c f hfs, sectionHasZero_iff c f hfs⟩

/-- Settles O25, by the cases of `magEval` and of `NX.mag`. -/
theorem magAtResult : Obligations.MagAtResult := by
  intro s
  refine ⟨fun hf => ?_, fun hf hnone => ?_, fun hf hpole => ?_, fun hf hsome hnopole => ?_⟩
  · rw [exec_magAt, noteNonFinite_eq, hf]
    rfl
  · exact exec_magAt_of_number hf (magEval_of_none hnone _) (by decide)
  · obtain ⟨c, hc, -⟩ := id hpole
    have hmag := magEval_of_included (List.ne_nil_of_mem hc) s.arg0
    rw [nxMag_of_pole hpole] at hmag
    rw [exec_magAt_of_finite hf, hmag]
    rfl
  · have hle := (nxMag_of_noPole hnopole s.build.nx).1
    exact ⟨exec_magAt_of_number hf (magEval_of_included hsome _) (isNaN_of_toNat_le hle), hle⟩
end

section
/-! SWEEP: its columns, its range check, and its repetition (42_magnitude_response.md R206, R207). -/

namespace Sys2Proof.Machine

/-! ### Columns -/

theorem columnMags_length (s : State) (hi : Word) : (columnMags s hi).length = s.width.toNat := by
  rw [columnMags, List.length_map, List.length_range]

/-- A column's magnitude as its decibels over the floor; a NaN and what is below the floor become the floor
(00_scope.md R14; 42_magnitude_response.md R206). -/
theorem columnDb_eq (s : State) (m : Word) :
    columnDb s m =
      if isNaN m then s.respFloorDb
      else if isNaN (nxDb s.build.nx m) || f32Lt (nxDb s.build.nx m) s.respFloorDb then s.respFloorDb
      else nxDb s.build.nx m := by
  cases hm : isNaN m with
  | true => rw [columnDb, hm]; rfl
  | false => rw [columnDb, hm]; rfl

/-- A column met a NaN: what NONFINITE notes (42_magnitude_response.md R206). -/
theorem any_columnMags_iff (s : State) (hi : Word) :
    (columnMags s hi).any isNaN = true ↔ ∃ x < s.width.toNat, isNaN (columnMag s hi x) = true := by
  simp [columnMags, List.any_eq_true]

/-- What a sweep leaves: the columns' words in RESP, `WIDTH` in RESULT, and NONFINITE noted. -/
theorem sweepColumns_eq (s : State) (hi : Word) :
    sweepColumns s hi = { s with
      mem := writeWords s.mem 0x400000 ((columnMags s hi).map (columnDb s))
      result := s.width
      status := if (columnMags s hi).any isNaN then s.status ||| 0x10 else s.status } := by
  rw [sweepColumns, noteNonFinite_eq]
  rfl

theorem sweepColumns_byte (s : State) (hi : Word) {a : Nat}
    (h : a < 0x400000 ∨ 0x400000 + 4 * s.width.toNat ≤ a) :
    readByte (sweepColumns s hi).mem a = readByte s.mem a := by
  rw [sweepColumns_eq]
  exact readByte_writeWords_outside _ _ _ _ (by rwa [List.length_map, columnMags_length])

/-- The word of a column in RESP (42_magnitude_response.md R206). -/
theorem sweepColumns_column (s : State) (hi : Word) {x : Nat} (hx : x < s.width.toNat)
    (hw : s.width.toNat ≤ Build.wmax s.build) :
    loadLoc (sweepColumns s hi) (.buf .resp x) = columnDb s (columnMag s hi x) := by
  have hlen : x < ((columnMags s hi).map (columnDb s)).length := by rwa [List.length_map, columnMags_length]
  have hword := readWord_writeWords_inside s.mem 0x400000 _ x hlen
  rw [loadLoc, sweepColumns_build, bufLen_resp, if_pos (hx.trans_le hw), sweepColumns_eq]
  refine hword.trans ?_
  rw [List.getD_eq_getElem _ _ hlen, List.getElem_map]
  simp [columnMags]

/-! ### The range check -/

/-- SWEEP with FMIN below FMAX (42_magnitude_response.md R206). -/
theorem exec_sweep_of_lt {s : State} (h : f32Lt s.fmin s.fmax = true) :
    exec .sweep s = .next (sweepColumns s s.fmax) := congrArg Host.Outcome.next (if_pos h)

/-- SWEEP with FMIN not below FMAX under STRICT = 1 (42_magnitude_response.md R206). -/
theorem exec_sweep_strict {s : State} (h : f32Lt s.fmin s.fmax = false) (hs : s.ctrl.getLsbD 0 = true) :
    exec .sweep s = .next (State.reject s .badRange) := congrArg Host.Outcome.next (classD_strict _ _ _ _ h hs)

/-- SWEEP with FMIN not below FMAX under STRICT = 0 (42_magnitude_response.md R206). -/
theorem exec_sweep_lenient {s : State} (h : f32Lt s.fmin s.fmax = false) (hs : s.ctrl.getLsbD 0 = false) :
    exec .sweep s = .next (sweepColumns (State.recordClamp s .badRange) s.fmin) :=
  congrArg Host.Outcome.next (classD_lenient _ _ _ _ h hs)

/-! ### Storing the same words twice -/

theorem filter_blockCells_of_outside {p : Host.Cell → Bool} {a : Nat} {bs : List Byte}
    (h : ∀ c : Host.Cell, a ≤ c.1 → c.1 < a + bs.length → p c = false) : (blockCells a bs).filter p = [] := by
  refine List.filter_eq_nil_iff.2 fun c hc => ?_
  obtain ⟨hlo, hhi, -⟩ := mem_blockCells bs a c hc
  simp [h c hlo hhi]

/-- A block stored again over itself changes nothing. -/
theorem writeBlock_writeBlock (m : Memory) (a : Nat) (bs : List Byte) :
    writeBlock (writeBlock m a bs) a bs = writeBlock m a bs := by
  have hbelow : (writeBlock m a bs).filter (fun c => c.1 < a) = m.filter (fun c => c.1 < a) := by
    rw [writeBlock, List.filter_append, List.filter_append, List.filter_filter, List.filter_filter,
      filter_blockCells_of_outside fun c hlo _ => decide_eq_false (not_lt.2 hlo), List.append_nil]
    have hnone : m.filter (fun c => decide (c.1 < a) && decide (a + bs.length ≤ c.1)) = [] :=
      List.filter_eq_nil_iff.2 fun c _ => by simp only [Bool.and_eq_true, decide_eq_true_eq]; omega
    rw [hnone, List.append_nil]
    simp only [Bool.and_self]
  have habove : (writeBlock m a bs).filter (fun c => a + bs.length ≤ c.1) =
      m.filter (fun c => a + bs.length ≤ c.1) := by
    rw [writeBlock, List.filter_append, List.filter_append, List.filter_filter, List.filter_filter,
      filter_blockCells_of_outside fun c _ hhi => decide_eq_false (not_le.2 hhi), List.append_nil]
    have hnone : m.filter (fun c => decide (a + bs.length ≤ c.1) && decide (c.1 < a)) = [] :=
      List.filter_eq_nil_iff.2 fun c _ => by simp only [Bool.and_eq_true, decide_eq_true_eq]; omega
    rw [hnone, List.nil_append]
    simp only [Bool.and_self]
  rw [writeBlock, hbelow, habove, writeBlock]

theorem writeWords_writeWords (m : Memory) (a : Nat) (ws : List Word) :
    writeWords (writeWords m a ws) a ws = writeWords m a ws := writeBlock_writeBlock m a _

theorem or_or_self (v k : Word) : v ||| k ||| k = v ||| k := by rw [BitVec.or_assoc, BitVec.or_self]

/-- The same sweep again writes the same columns over themselves (42_magnitude_response.md R207). -/
theorem sweepColumns_sweepColumns (s : State) (hi : Word) :
    sweepColumns (sweepColumns s hi) hi = sweepColumns s hi := by
  have hmags : columnMags (sweepColumns s hi) hi = columnMags s hi := by rw [sweepColumns_eq]; rfl
  have hdb : columnDb (sweepColumns s hi) = columnDb s := by rw [sweepColumns_eq]; rfl
  rw [sweepColumns_eq (sweepColumns s hi), hmags, hdb, sweepColumns_eq s]
  cases (columnMags s hi).any isNaN <;>
    simp only [writeWords_writeWords, or_or_self, if_true, if_false, Bool.false_eq_true]

/-- A clamp recorded before a sweep needs no recording after it (40_command_execution.md R143). -/
theorem recordClamp_sweepColumns (s : State) (e : ErrCode) (hi : Word) :
    State.recordClamp (sweepColumns (State.recordClamp s e) hi) e = sweepColumns (State.recordClamp s e) hi := by
  rw [sweepColumns_eq, recordClamp_eq, recordClamp_eq]
  cases (columnMags { s with status := s.status ||| 0x02, errcode := e.code } hi).any isNaN with
  | true => simp only [if_true, BitVec.or_assoc]; rfl
  | false => simp only [if_false, Bool.false_eq_true, or_or_self]

end Sys2Proof.Machine

open Sys2Proof Sys2Proof.Machine

/-- Settles O26: the sweep's columns are at FMAX's frequencies, or after the recorded clamp all at FMIN. -/
theorem sweepWritesItsColumns : Obligations.SweepWritesItsColumns := by
  intro s
  refine ⟨fun hlt hw => ⟨_, exec_sweep_of_lt hlt, fun x hx => ?_, fun a ha => sweepColumns_byte s s.fmax ha, ?_⟩,
    fun hle hs => (exec_sweep_strict hle hs).trans (congrArg Host.Outcome.next (reject_eq s .badRange)),
    fun hle hs hw => ⟨_, exec_sweep_lenient hle hs, fun x hx => ?_, fun a ha => ?_, ?_⟩⟩
  · exact (sweepColumns_column s s.fmax hx hw).trans (columnDb_eq s _)
  · rw [sweepColumns_eq]
    simp only [any_columnMags_iff]
    rfl
  · rw [sweepColumns_column (State.recordClamp s .badRange) s.fmin hx hw, columnDb_eq, columnMag,
      show (State.recordClamp s .badRange).fmin = s.fmin from rfl, nxColFreq_point]
    rfl
  · rw [recordClamp_eq]
    exact sweepColumns_byte _ _ ha
  · rw [recordClamp_eq, sweepColumns_eq]
    simp only [any_columnMags_iff, columnMag, nxColFreq_point]
    have hany : (∃ x < s.width.toNat, isNaN (magEval s s.fmin) = true) ↔
        0 < s.width.toNat ∧ isNaN (magEval s s.fmin) = true :=
      ⟨fun ⟨x, hx, h⟩ => ⟨by omega, h⟩, fun ⟨hpos, h⟩ => ⟨0, hpos, h⟩⟩
    simp only [← hany]
    rfl

/-- Settles O27: every column's magnitude is 1, whose decibels are `+0`, and no floor is above 0. -/
theorem bypassedChainSweepsToZero : Obligations.BypassedChainSweepsToZero := by
  intro s hinv hlt hnone
  obtain ⟨-, -, hfloor⟩ := hinv.respFloorDb
  have hone : ∀ x, columnMag s s.fmax x = f32One := fun x => magEval_of_none hnone _
  refine ⟨_, exec_sweep_of_lt hlt, fun x hx => ?_, ?_, ?_⟩
  · rw [sweepColumns_column s s.fmax hx hinv.width, hone]
    have hbelow : f32Lt 0 s.respFloorDb = false := f32Lt_of_key_le hfloor
    rw [columnDb_eq, if_neg (by decide), show nxDb s.build.nx f32One = 0 from rfl, hbelow]
    rfl
  · have hnan : ¬(columnMags s s.fmax).any isNaN = true := by
      rw [any_columnMags_iff]
      rintro ⟨x, -, hx⟩
      rw [hone] at hx
      exact absurd hx (by decide)
    rw [sweepColumns_eq]
    exact if_neg hnan
  · rw [sweepColumns_eq]

/-- Settles O28: the second sweep takes the same branch of the range check, and writes what it finds. -/
theorem sweepIsIdempotent : Obligations.SweepIsIdempotent := by
  intro s t h
  have hsame := exec_sameHostPart (by decide) h
  have hrange : f32Lt t.fmin t.fmax = f32Lt s.fmin s.fmax := by rw [hsame.fmin, hsame.fmax]
  have hstrict : t.ctrl.getLsbD 0 = s.ctrl.getLsbD 0 := by rw [hsame.ctrl]
  cases hlt : f32Lt s.fmin s.fmax with
  | true =>
    rw [exec_sweep_of_lt (hrange.trans hlt), hsame.fmax]
    rw [exec_sweep_of_lt hlt] at h
    cases h
    rw [sweepColumns_sweepColumns]
  | false =>
    cases hs : s.ctrl.getLsbD 0 with
    | true =>
      rw [exec_sweep_strict (hrange.trans hlt) (hstrict.trans hs)]
      rw [exec_sweep_strict hlt hs] at h
      cases h
      simp only [reject_eq, or_or_self]
    | false =>
      rw [exec_sweep_lenient (hrange.trans hlt) (hstrict.trans hs), hsame.fmin]
      rw [exec_sweep_lenient hlt hs] at h
      cases h
      rw [recordClamp_sweepColumns, sweepColumns_sweepColumns]
end

section
/-! The designed sections as MAG_AT sees them (42_magnitude_response.md R202, R203, R208). -/

namespace Sys2Proof.Machine

/-! ### A run of included sections -/

theorem sections_of_run : ∀ base < 9, ∀ o ≤ 9 - base,
    ((List.finRange 9).filter fun i => decide (base ≤ i.val ∧ i.val < base + o)).map Fin.val =
      (List.range o).map (base + ·) := by decide

/-- When the included sections are those from `base` to `base + o − 1`, their coefficients are listed in order. -/
theorem includedSections_of_run {s : State} {base o : Nat} (hbase : base < 9) (ho : o ≤ 9 - base) {f : Nat → Coefs}
    (hinc : ∀ i : Fin 9, included s.bypass i.val = true ↔ base ≤ i.val ∧ i.val < base + o)
    (hcoef : ∀ i : Fin 9, base ≤ i.val ∧ i.val < base + o → s.coef[i] = f (i.val - base)) :
    includedSections s = (List.range o).map f := by
  have hfilter : ((List.finRange 9).filter fun i => included s.bypass i.val) =
      (List.finRange 9).filter fun i => decide (base ≤ i.val ∧ i.val < base + o) :=
    List.filter_congr fun i _ => by rw [Bool.eq_iff_iff, hinc i, decide_eq_true_eq]
  calc includedSections s
      = ((List.finRange 9).filter fun i => decide (base ≤ i.val ∧ i.val < base + o)).map
          fun i => f (i.val - base) := by
        rw [includedSections, hfilter]
        exact List.map_congr_left fun i hi => hcoef i (of_decide_eq_true (List.mem_filter.1 hi).2)
    _ = ((List.range o).map (base + ·)).map fun k => f (k - base) := by
        rw [← sections_of_run base hbase o ho, List.map_map]
        rfl
    _ = (List.range o).map f := by simp [Function.comp_def]

/-- MAG_AT after another command sees the sections that it leaves included (42_magnitude_response.md R203). -/
theorem exec_magAt_after {s t : State} {i : Instr} (ht : exec i s = .next t) (hi : i ≠ .reset) {f : Word}
    (hf : isFinite f = true) {secs : List Coefs} (hne : secs ≠ []) (hsecs : includedSections t = secs) :
    ∃ u, exec .magAt { t with arg0 := f } = .next u ∧ u.result = nxMag s.build.nx secs f s.sampleRate := by
  subst hsecs
  have hsame := exec_sameHostPart hi ht
  rw [← hsame.build, ← hsame.sampleRate]
  exact ⟨_, exec_magAt_of_finite (s := { t with arg0 := f }) hf,
    magEval_of_included (s := { t with arg0 := f }) hne f⟩

/-! ### One open stage -/

/-- Of the three stages only the one of BYPASS bit `st` is open (10_state.md R50, R56). -/
def OnlyStageOpen (bypass : Word) (st : Nat) : Prop := ∀ k < 3, bypass.getLsbD k = decide (k ≠ st)

theorem stageBit_lt (i : Nat) : stageBit i < 3 := by
  unfold stageBit
  split_ifs <;> decide

/-- With one stage open, the included sections are those of that stage that are not bypassed themselves. -/
theorem OnlyStageOpen.included_iff {bypass : Word} {st : Nat} (h : OnlyStageOpen bypass st) (i : Nat) :
    included bypass i = true ↔ stageBit i = st ∧ bypass.getLsbD (sectionBit i) = false := by
  rw [Machine.included_iff, h _ (stageBit_lt i), decide_eq_false_iff_not, not_not]

/-- A design that keeps the three stage bits leaves the same stage open. -/
theorem OnlyStageOpen.of_same_bits {bypass bypass' : Word} {st : Nat} (h : OnlyStageOpen bypass st)
    (hsame : ∀ k < 3, bypass'.getLsbD k = bypass.getLsbD k) : OnlyStageOpen bypass' st :=
  fun k hk => (hsame k hk).trans (h k hk)

theorem onlyStageOpen_iff (bypass : Word) (st : Nat) : OnlyStageOpen bypass st ↔
    bypass.getLsbD 0 = decide (0 ≠ st) ∧ bypass.getLsbD 1 = decide (1 ≠ st) ∧ bypass.getLsbD 2 = decide (2 ≠ st) := by
  simp only [OnlyStageOpen, Nat.forall_lt_succ_right, Nat.not_lt_zero, false_imp_iff, implies_true, true_and, and_assoc]

/-! ### The sections after each design -/

/-- After a cut design of its only open stage, the first `o` sections of the stage are included
(41_coefficient_design.md R181, R183). -/
theorem includedSections_designCut {s : State} {st base lo o : Nat} (h : OnlyStageOpen s.bypass st) (ho : o ≤ 4)
    (hbase : base ≤ 5) (hlo : 3 ≤ lo) (hlo' : lo ≤ 28)
    (hstage : ∀ i : Fin 9, stageBit i.val = st ↔ base ≤ i.val ∧ i.val < base + 4)
    (hbit : ∀ i : Fin 9, stageBit i.val = st → sectionBit i.val = lo + (i.val - base)) (f : Nat → Coefs) :
    includedSections (designCut s base lo o f) = (List.range o).map f := by
  have hbits := designCut_bypass s base lo f ho
  have hopen : OnlyStageOpen (designCut s base lo o f).bypass st := h.of_same_bits fun k hk => by
    rw [hbits k (by omega), if_neg (by omega), if_neg (by omega)]
  refine includedSections_of_run (base := base) (by omega) (by omega) (fun i => ?_) fun i hi => by
    rw [designCut_coef, if_pos hi]
  rw [hopen.included_iff]
  constructor
  · rintro ⟨hst, hsec⟩
    obtain ⟨hle, hlt⟩ := (hstage i).1 hst
    rw [hbit i hst, hbits _ (by omega)] at hsec
    by_contra hout
    rw [if_neg (by omega), if_pos (by omega)] at hsec
    exact absurd hsec (by decide)
  · rintro ⟨hle, hlt⟩
    have hst := (hstage i).2 ⟨hle, by omega⟩
    exact ⟨hst, by rw [hbit i hst, hbits _ (by omega), if_pos (by omega)]⟩

/-- After DESIGN_PEAK with only its stage open, the peak is the one included section (41_coefficient_design.md R182). -/
theorem includedSections_designPeak {s t : State} (h : OnlyStageOpen s.bypass 1) (ht : exec .designPeak s = .next t) :
    includedSections t =
      [nxPk s.build.nx (clampFreq s.sampleRate s.arg0) (clampGain s.arg1) (clampQ s.arg2) s.sampleRate] := by
  obtain ⟨t', ht', hcoef, hbits, -⟩ := peakDesignsItsSection s
  obtain rfl : t' = t := by rw [ht] at ht'; cases ht'; rfl
  have hopen : OnlyStageOpen t'.bypass 1 := h.of_same_bits fun k hk => by rw [hbits k (by omega), if_neg (by omega)]
  refine includedSections_of_run (base := peakSection) (o := 1) (by decide) (by decide) (fun i => ?_)
    (f := fun _ => nxPk s.build.nx (clampFreq s.sampleRate s.arg0) (clampGain s.arg1) (clampQ s.arg2) s.sampleRate)
    fun i hi => ?_
  · have hstage : ∀ i : Fin 9, stageBit i.val = 1 ↔ peakSection ≤ i.val ∧ i.val < peakSection + 1 := by decide
    rw [hopen.included_iff, hstage]
    refine and_iff_left_of_imp fun hi => ?_
    obtain hi : i.val = 4 := by unfold peakSection at hi; omega
    rw [hi, hbits _ (by decide)]
    rfl
  · unfold peakSection at hi
    rw [hcoef, if_pos (by omega)]

end Sys2Proof.Machine

open Sys2Proof Sys2Proof.Machine

/-- Settles O29: each design leaves the sections of its own stage as a run, and MAG_AT sees that run. -/
theorem designSeenThroughMagAt : Obligations.DesignSeenThroughMagAt := by
  intro s t f hf
  have hne : ∀ {o : Nat} (g : Nat → Coefs), 1 ≤ o → (List.range o).map g ≠ [] := fun g ho => by
    simp only [ne_eq, List.map_eq_nil_iff, List.range_eq_nil]
    omega
  refine ⟨fun o h1 h4 ht hb0 hb1 hb2 => exec_magAt_after ht nofun hf (hne _ h1) ?_,
    fun ht hb0 hb1 hb2 => exec_magAt_after ht nofun hf (List.cons_ne_nil _ _) ?_,
    fun o h1 h4 ht hb0 hb1 hb2 => exec_magAt_after ht nofun hf (hne _ h1) ?_⟩
  · rw [exec_designLowcut_legal s ((orderLegal_iff o).2 ⟨h1, h4⟩)] at ht
    cases ht
    exact includedSections_designCut (st := 0) ((onlyStageOpen_iff _ _).2 ⟨hb0, hb1, hb2⟩) h4 (by decide) (by decide)
      (by decide) (by decide) (by decide) _
  · exact includedSections_designPeak ((onlyStageOpen_iff _ _).2 ⟨hb0, hb1, hb2⟩) ht
  · rw [exec_designHighcut_legal s ((orderLegal_iff o).2 ⟨h1, h4⟩)] at ht
    cases ht
    exact includedSections_designCut (st := 2) ((onlyStageOpen_iff _ _).2 ⟨hb0, hb1, hb2⟩) h4 (by decide) (by decide)
      (by decide) (by decide) (by decide) _
end

section
/-! The source's peak test under `NX_ref` (42_magnitude_response.md R208): what the roundings of the coefficients, of the
magnitude and of the decibels can add up to. -/

namespace Sys2Proof.Ideal
open Sys2Proof.Machine

/-! ### Errors of decibels and of quadratics -/

theorem two_le_log_ten : 2 ≤ Real.log 10 := by
  rw [Real.le_log_iff_exp_le (by norm_num), show (2 : ℝ) = 1 + 1 by norm_num, Real.exp_add]
  nlinarith [Real.exp_one_lt_d9, Real.exp_pos 1]

theorem decibels_div {x y : ℝ} (hx : 0 < x) (hy : 0 < y) : decibels (x / y) = decibels x - decibels y := by
  rw [decibels, Real.logb_div hx.ne' hy.ne', mul_sub, decibels, decibels]

/-- A relative error `ε` is at most `20·ε` in decibels. -/
theorem abs_decibels_sub_le {x y ε : ℝ} (hy : 0 < y) (hε : ε ≤ 1 / 2) (h : |x - y| ≤ ε * y) :
    |decibels x - decibels y| ≤ 20 * ε := by
  obtain ⟨hlo, hhi⟩ := abs_le.1 h
  have hε0 : 0 ≤ ε := nonneg_of_mul_nonneg_left ((abs_nonneg _).trans h) hy
  have hx : 0 < x := by nlinarith
  have hratio : 1 - ε ≤ x / y ∧ x / y ≤ 1 + ε := by
    rw [le_div_iff₀ hy, div_le_iff₀ hy]
    constructor <;> linarith
  have hinv : (x / y)⁻¹ ≤ 1 + 2 * ε := by
    rw [inv_le_iff_one_le_mul₀ (by positivity)]
    nlinarith
  have hlog : |Real.log (x / y)| ≤ 2 * ε := by
    have hbelow := Real.one_sub_inv_le_log_of_pos (div_pos hx hy)
    have habove := Real.log_le_sub_one_of_pos (div_pos hx hy)
    rw [abs_le]
    constructor <;> linarith [hratio.2]
  have hten := two_le_log_ten
  rw [← decibels_div hx hy, decibels, Real.logb, abs_mul, abs_div, abs_of_pos (by linarith : 0 < Real.log 10),
    abs_of_pos (by norm_num : (0 : ℝ) < 20)]
  gcongr
  rw [div_le_iff₀ (by linarith)]
  nlinarith

/-- On the unit circle a quadratic changes by no more than its coefficients do. -/
theorem abs_norm_quadratic_sub_le {z : ℂ} (hz : ‖z‖ = 1) (x0 x1 x2 y0 y1 y2 : ℝ) :
    |‖(x0 : ℂ) + x1 * z⁻¹ + x2 * z⁻¹ ^ 2‖ - ‖(y0 : ℂ) + y1 * z⁻¹ + y2 * z⁻¹ ^ 2‖| ≤
      |x0 - y0| + |x1 - y1| + |x2 - y2| := by
  have hsplit : (x0 : ℂ) + x1 * z⁻¹ + x2 * z⁻¹ ^ 2 - (y0 + y1 * z⁻¹ + y2 * z⁻¹ ^ 2) =
      ((x0 - y0 : ℝ) : ℂ) + ((x1 - y1 : ℝ) : ℂ) * z⁻¹ + ((x2 - y2 : ℝ) : ℂ) * z⁻¹ ^ 2 := by
    push_cast; ring
  refine (abs_norm_sub_norm_le _ _).trans ?_
  rw [hsplit]
  refine (norm_add₃_le).trans (le_of_eq ?_)
  simp only [norm_mul, norm_pow, norm_inv, hz, Complex.norm_real, Real.norm_eq_abs, inv_one, one_pow, mul_one]

/-- The polynomials of a small section, its coefficients rounded once, are off by at most `48·2^-24` on the unit circle. -/
theorem RealCoefs.Small.polynomials_near {c : RealCoefs} (h : c.Small) {f fs : Word} {w : ℝ}
    (hw : 2 * Real.pi * val f / val fs = w) :
    |‖numerator (roundCoefs c) (evalPoint f fs)‖ - ‖realNum c w‖| ≤ 48 / 2 ^ 24 ∧
      |‖denominator (roundCoefs c) (evalPoint f fs)‖ - ‖realDen c w‖| ≤ 48 / 2 ^ 24 := by
  subst hw
  obtain ⟨-, hb0, hb1, hb2, ha1, ha2⟩ := h.rounded
  obtain ⟨sb0, sb1, sb2, sa1, sa2⟩ := h
  have hz : ‖evalPoint f fs‖ = 1 := Complex.norm_exp_ofReal_mul_I _
  have coef : ∀ {v r : ℝ}, |v - r| ≤ 1 / 2 ^ 24 * max 1 |r| → |r| ≤ 16 → |v - r| ≤ 16 / 2 ^ 24 := fun hv hr => by
    have := max_le (by norm_num : (1 : ℝ) ≤ 16) hr
    linarith
  have hnum := abs_norm_quadratic_sub_le hz (val (roundCoefs c).b0) (val (roundCoefs c).b1) (val (roundCoefs c).b2)
    c.b0 c.b1 c.b2
  have hden := abs_norm_quadratic_sub_le hz 1 (val (roundCoefs c).a1) (val (roundCoefs c).a2) 1 c.a1 c.a2
  rw [Complex.ofReal_one, sub_self, abs_zero, zero_add] at hden
  have eb0 := coef hb0 sb0
  have eb1 := coef hb1 sb1
  have eb2 := coef hb2 sb2
  have ea1 := coef ha1 sa1
  have ea2 := coef ha2 sa2
  exact ⟨hnum.trans (by linarith), hden.trans (by linarith)⟩

/-! ### The peak of the test -/

/-- The peak of the source's test: 6 dB and Q 1 at 1000 Hz and 44100 Hz (42_magnitude_response.md R208). -/
noncomputable def sourcePeak : RealCoefs := pkIdeal 1000 6 1 44100

/-- `ω` of its centre. -/
noncomputable def sourceCentre : ℝ := 2 * Real.pi * 1000 / 44100

/-- The sine of the centre by Jordan's inequality. -/
theorem le_sin_sourceCentre : 4 / 45 ≤ Real.sin sourceCentre := by
  have hpi := Real.pi_pos
  have hjordan := Real.mul_le_sin (x := sourceCentre) (by unfold sourceCentre; positivity)
    (by unfold sourceCentre; linarith)
  have hline : 2 / Real.pi * sourceCentre = 4 * 1000 / 44100 := by
    unfold sourceCentre
    field_simp
    norm_num
  rw [hline] at hjordan
  exact le_trans (by norm_num) hjordan

theorem rpow_le_of_pow_le {x : ℝ} {n k : ℕ} (hn : n ≠ 0) (hx : 0 ≤ x) (h : (10 : ℝ) ^ k ≤ x ^ n) :
    (10 : ℝ) ^ ((k : ℝ) / n) ≤ x := by
  have hroot := Real.rpow_le_rpow (by positivity) h (by positivity : (0 : ℝ) ≤ (n : ℝ)⁻¹)
  rwa [Real.pow_rpow_inv_natCast hx hn, ← Real.rpow_natCast, ← Real.rpow_mul (by norm_num), ← div_eq_mul_inv] at hroot

/-- The denominator at the centre is far above the errors of its coefficients. -/
theorem le_norm_realDen_sourcePeak : 1 / 250 ≤ ‖realDen sourcePeak sourceCentre‖ := by
  have hsin := le_sin_sourceCentre
  have ha : (10 : ℝ) ^ ((6 : ℝ) / 40) ≤ 3 / 2 := by
    have := rpow_le_of_pow_le (x := 3 / 2) (n := 40) (k := 6) (by decide) (by norm_num) (by norm_num)
    exact_mod_cast this
  have ha0 : (0 : ℝ) < 10 ^ ((6 : ℝ) / 40) := by positivity
  set a : ℝ := 10 ^ ((6 : ℝ) / 40)
  set t : ℝ := Real.sin sourceCentre / (2 * 1) / a
  have ht : 1 / 36 ≤ t := by
    rw [le_div_iff₀ ha0]
    nlinarith
  have hgap : 1 - sourcePeak.a2 = 2 * t / (1 + t) := by
    have hcoef : sourcePeak.a2 = (1 - t) / (1 + t) := rfl
    rw [hcoef]
    field_simp
    ring
  have hgap' : 2 / 37 ≤ 1 - sourcePeak.a2 := by
    rw [hgap, div_le_div_iff₀ (by norm_num) (by linarith)]
    linarith
  have hden := norm_quadratic 1 sourcePeak.a1 sourcePeak.a2 sourceCentre
  rw [Complex.ofReal_one] at hden
  calc (1 : ℝ) / 250 ≤ 2 / 37 * (4 / 45) := by norm_num
    _ ≤ (1 - sourcePeak.a2) * Real.sin sourceCentre := by gcongr
    _ ≤ √(circlePower 1 sourcePeak.a1 sourcePeak.a2 sourceCentre) :=
        Real.le_sqrt_of_sq_le (le_add_of_nonneg_left (sq_nonneg _))
    _ = ‖realDen sourcePeak sourceCentre‖ := hden.symm

/-- The gain of the peak at its centre, 6 dB. -/
noncomputable def sourceGain : ℝ := 10 ^ ((6 : ℝ) / 20)

theorem decibels_sourceGain : decibels sourceGain = 6 := by
  rw [decibels, sourceGain, Real.logb_rpow (by norm_num) (by norm_num)]
  norm_num

theorem sourceGain_bounds : 3 / 2 ≤ sourceGain ∧ sourceGain ≤ 2 := by
  refine ⟨?_, ?_⟩
  · rw [sourceGain, Real.rpow_def_of_pos (by norm_num)]
    linarith [Real.add_one_le_exp (Real.log 10 * (6 / 20)), two_le_log_ten]
  · have := rpow_le_of_pow_le (x := 2) (n := 20) (k := 6) (by decide) (by norm_num) (by norm_num)
    exact_mod_cast this

theorem norm_realNum_sourcePeak :
    ‖realNum sourcePeak sourceCentre‖ = sourceGain * ‖realDen sourcePeak sourceCentre‖ := by
  have hden := le_norm_realDen_sourcePeak
  have hgain := realMag_pkIdeal_centre (f := 1000) (fs := 44100) (q := 1) (by norm_num) (by norm_num) 6 (by norm_num)
  exact (div_eq_iff (by linarith)).1 hgain

/-! ### The test under `NX_ref` -/

theorem val_of_units {v : Word} {n : ℤ} (h : valUnits v = n * 2 ^ 149) : val v = n := by
  rw [val, h, Int.cast_mul, Int.cast_pow, Int.cast_ofNat]
  exact mul_div_cancel_right₀ _ (pow_ne_zero 149 two_ne_zero)

theorem val_sourceRate : val 0x472C4400 = 44100 := by exact_mod_cast val_of_units (n := 44100) (by decide)
theorem val_sourceFreq : val 0x447A0000 = 1000 := by exact_mod_cast val_of_units (n := 1000) (by decide)
theorem val_sourceDecibels : val 0x40C00000 = 6 := by exact_mod_cast val_of_units (n := 6) (by decide)

theorem sourceRate_legal : LegalRate 0x472C4400 := by
  refine ⟨by decide, ?_, ?_⟩ <;> rw [val_sourceRate] <;> norm_num

theorem sourceQ_legal : LegalQ 0x3F800000 := by
  have hlow : val 0x3DCCCCCD ≤ 1 := by
    rw [val, show valUnits 0x3DCCCCCD = 13421773 * 2 ^ 122 by decide]
    norm_num
  refine ⟨by decide, ?_, ?_⟩ <;> rw [val_one]
  · exact hlow
  · norm_num

/-- The operands of the source's peak test are legal (42_magnitude_response.md R208). -/
theorem sourcePeak_legal : LegalPeak 0x447A0000 0x40C00000 0x3F800000 0x472C4400 := by
  refine ⟨sourceRate_legal, ⟨by decide, ?_, ?_⟩, ⟨by decide, ?_⟩, sourceQ_legal⟩
  · rw [val_sourceFreq]; norm_num
  · rw [val_sourceFreq, val_sourceRate]; norm_num
  · rw [val_sourceDecibels, abs_of_pos] <;> norm_num

theorem nxPk_sourcePeak : nxPk .reference 0x447A0000 0x40C00000 0x3F800000 0x472C4400 = roundCoefs sourcePeak := by
  rw [nxPk_reference sourcePeak_legal, val_sourceFreq, val_sourceDecibels, val_one, val_sourceRate, sourcePeak]

theorem sourcePeak_small : sourcePeak.Small :=
  pkIdeal_small ((by norm_num : (0 : ℝ) ≤ 4 / 45).trans le_sin_sourceCentre) (by norm_num) one_pos

/-- The numerator and the denominator of the designed section at the centre are within a thousandth of the ideals. -/
theorem sourcePeak_polynomials :
    |‖numerator (roundCoefs sourcePeak) (evalPoint 0x447A0000 0x472C4400)‖ - ‖realNum sourcePeak sourceCentre‖| ≤
        1 / 1000 * ‖realNum sourcePeak sourceCentre‖ ∧
      |‖denominator (roundCoefs sourcePeak) (evalPoint 0x447A0000 0x472C4400)‖ - ‖realDen sourcePeak sourceCentre‖| ≤
        1 / 1000 * ‖realDen sourcePeak sourceCentre‖ := by
  have hcentre : 2 * Real.pi * val 0x447A0000 / val 0x472C4400 = sourceCentre := by
    rw [val_sourceFreq, val_sourceRate, sourceCentre]
  obtain ⟨hnum, hden⟩ := sourcePeak_small.polynomials_near hcentre
  have hlarge := le_norm_realDen_sourcePeak
  have hgain := sourceGain_bounds.1
  have herr : (48 : ℝ) / 2 ^ 24 ≤ 1 / 1000 * (1 / 250) := by norm_num
  rw [norm_realNum_sourcePeak] at hnum ⊢
  exact ⟨hnum.trans (by nlinarith), hden.trans (by linarith)⟩

theorem sourcePeak_noPole : ¬HasPole [roundCoefs sourcePeak] 0x447A0000 0x472C4400 := by
  obtain ⟨-, hden⟩ := sourcePeak_polynomials
  have hlarge := le_norm_realDen_sourcePeak
  rintro ⟨c, hc, hpole⟩
  rw [List.mem_singleton.1 hc] at hpole
  rw [hpole, norm_zero, zero_sub, abs_neg, abs_norm] at hden
  linarith

theorem sourcePeak_legalMag : LegalMag [roundCoefs sourcePeak] 0x447A0000 0x472C4400 := by
  refine ⟨List.cons_ne_nil _ _, fun c hc => ?_, by decide, sourceRate_legal⟩
  rw [List.mem_singleton.1 hc]
  exact sourcePeak_small.rounded.1

theorem cascadeMag_singleton (c : Coefs) (f fs : Word) :
    cascadeMag [c] f fs = ‖numerator c (evalPoint f fs)‖ / ‖denominator c (evalPoint f fs)‖ := by
  simp [cascadeMag, sectionMag]

/-- The designed section's magnitude at the centre, before it is rounded. -/
theorem sourcePeak_magnitude :
    |decibels (cascadeMag [roundCoefs sourcePeak] 0x447A0000 0x472C4400) - 6| ≤ 1 / 25 ∧
      1 ≤ cascadeMag [roundCoefs sourcePeak] 0x447A0000 0x472C4400 ∧
      cascadeMag [roundCoefs sourcePeak] 0x447A0000 0x472C4400 ≤ 3 := by
  obtain ⟨hnum, hden⟩ := sourcePeak_polynomials
  have hlarge := le_norm_realDen_sourcePeak
  obtain ⟨hgain, hgain'⟩ := sourceGain_bounds
  rw [cascadeMag_singleton]
  set n := ‖numerator (roundCoefs sourcePeak) (evalPoint 0x447A0000 0x472C4400)‖
  set d := ‖denominator (roundCoefs sourcePeak) (evalPoint 0x447A0000 0x472C4400)‖
  rw [norm_realNum_sourcePeak] at hnum
  set D := ‖realDen sourcePeak sourceCentre‖
  have hD : 0 < D := by linarith
  have hN : 0 < sourceGain * D := by positivity
  obtain ⟨hnlo, hnhi⟩ := abs_le.1 hnum
  obtain ⟨hdlo, hdhi⟩ := abs_le.1 hden
  have hn : 0 < n := by linarith
  have hd : 0 < d := by linarith
  refine ⟨?_, ?_, ?_⟩
  · have hsix : decibels (sourceGain * D) - decibels D = 6 := by
      rw [← decibels_div hN hD, mul_div_cancel_right₀ _ hD.ne', decibels_sourceGain]
    have hdb := abs_le.1 (abs_decibels_sub_le hN (by norm_num) hnum)
    have hdb' := abs_le.1 (abs_decibels_sub_le hD (by norm_num) hden)
    rw [decibels_div hn hd, abs_le]
    constructor <;> linarith
  · rw [le_div_iff₀ hd]
    nlinarith
  · rw [div_le_iff₀ hd]
    nlinarith

/-- `NX_ref` keeps the tolerance of the source's peak test (42_magnitude_response.md R208). -/
theorem reference_keepsSourceTolerance : KeepsSourceTolerance .reference := by
  obtain ⟨hdb, hlo, hhi⟩ := sourcePeak_magnitude
  rw [KeepsSourceTolerance, nxPk_sourcePeak, nxMag_reference sourcePeak_legalMag sourcePeak_noPole]
  set m := cascadeMag [roundCoefs sourcePeak] 0x447A0000 0x472C4400
  have hm : m < overflowBound := lt_overflowBound (by linarith)
  have habs : |m| = m := abs_of_nonneg (by linarith)
  obtain ⟨hfin, hpos⟩ := rne32_positive hlo hm
  have hround := abs_val_rne32_sub_le (r := m) (by rwa [habs])
  rw [habs, max_eq_left (by norm_num; linarith)] at hround
  have hmag := abs_le.1 (abs_decibels_sub_le (by linarith : 0 < m) (by norm_num) hround)
  rw [nxDb_reference hfin hpos]
  set x := decibels (val (rne32 m))
  obtain ⟨hdlo, hdhi⟩ := abs_le.1 hdb
  have hx : |x| ≤ 7 := abs_le.2 ⟨by linarith, by linarith⟩
  have hlast := abs_le.1 ((abs_val_rne32_sub_le (r := x) (lt_overflowBound (by linarith))).trans
    (max_le (by linarith : 1 / 2 ^ 24 * |x| ≤ 1 / 1000) (by norm_num)))
  rw [abs_le]
  constructor <;> linarith

end Sys2Proof.Ideal

open Sys2Proof Sys2Proof.Machine

/-- Settles O30: the operands of the test are in the ranges of their clamps, so the commands evaluate the tolerance's own
expression, which `NX_ref` keeps. -/
theorem peakTestWithinTolerance : Obligations.PeakTestWithinTolerance := by
  refine ⟨Ideal.reference_keepsSourceTolerance, fun s t hrate h0 h1 h2 hb0 hb1 hb2 ht => ?_⟩
  have hsame := exec_sameHostPart (by decide) ht
  have hsecs := includedSections_designPeak ((onlyStageOpen_iff _ _).2 ⟨hb0, hb1, hb2⟩) ht
  rw [hrate, h0, h1, h2, show clampFreq 0x472C4400 0x447A0000 = 0x447A0000 by decide,
    show clampGain 0x40C00000 = 0x40C00000 by decide, show clampQ 0x3F800000 = 0x3F800000 by decide] at hsecs
  obtain ⟨u, hu, hres⟩ := exec_magAt_after ht nofun (f := 0x447A0000) (by decide) (List.cons_ne_nil _ _) hsecs
  have hself : { t with arg0 := 0x447A0000 } = t := by rw [← h0, ← hsame.arg0]
  rw [hself] at hu
  exact ⟨u, hu, by rw [hres, hrate, KeepsSourceTolerance]⟩
end

section
/-! The analyzer's buffers: INGEST, POP and CLEAR each store one buffer of a channel (43_spectral_analyzer.md R234,
R236, R237, R238). -/

namespace Sys2Proof.Machine

/-! ### Buffers -/

@[simp] theorem readBuf_setResult (s : State) (w : Word) (b : Buf) :
    readBuf (State.setResult s w) b = readBuf s b := rfl

@[simp] theorem readBuf_setChan (s : State) (c : Channel) (x : Chan) (b : Buf) :
    readBuf (State.setChan s c x) b = readBuf s b := by
  rw [readBuf, readBuf, State.setChan_mem, State.setChan_build]

/-- A buffer stored as a whole reads as what was stored. -/
theorem readBuf_writeBuf_same {s : State} {b : Buf} {ws : List Word} (h : ws.length = bufLen s.build b) :
    readBuf (State.writeBuf s b ws) b = ws := by
  rw [readBuf, State.writeBuf_build, ← h]
  exact readWords_writeWords_same s.mem (bufBase b) ws

theorem take_readWords (m : Memory) (a : Nat) {i n : Nat} (h : i ≤ n) : (readWords m a n).take i = readWords m a i := by
  rw [readWords, ← List.map_take, List.take_range, min_eq_left h, readWords]

/-- The first words of a buffer are what was stored from its start on. -/
theorem take_readBuf_writeBuf {s : State} {b : Buf} {ws : List Word} (h : ws.length ≤ bufLen s.build b) :
    (readBuf (State.writeBuf s b ws) b).take ws.length = ws := by
  rw [readBuf, State.writeBuf_build, take_readWords _ _ h]
  exact readWords_writeWords_same s.mem (bufBase b) ws

/-- Storing into one buffer of a legal build leaves the others as they are (20_memory.md R81). -/
theorem readBuf_writeBuf_other {s : State} (hlegal : Build.legal s.build = true) {f g : Buf} (hne : g ≠ f)
    {ws : List Word} (h : ws.length ≤ bufLen s.build f) : readBuf (State.writeBuf s f ws) g = readBuf s g := by
  obtain ⟨hf, hfmod⟩ := bufAt_bufBase f
  obtain ⟨hg, hgmod⟩ := bufAt_bufBase g
  have hflen := bufLen_le hlegal f
  have hglen := bufLen_le hlegal g
  have hblock : bufBase g / 0x40000 ≠ bufBase f / 0x40000 := fun heq =>
    hne (by simpa [hf, hg] using congrArg bufAt heq)
  exact readWords_writeWords_outside s.mem (bufBase f) ws (bufBase g) (bufLen s.build g) (by omega)

/-! ### One buffer, the channel and RESULT -/

/-- What INGEST, POP and CLEAR do to the state: a buffer stored, the channel's queue, freshness and drops replaced, and
RESULT set. -/
def storeForChannel (s : State) (b : Buf) (ws : List Word) (c : Channel) (x : Chan) (w : Word) : State :=
  State.setResult (State.setChan (State.writeBuf s b ws) c x) w

theorem storeForChannel_frame (s : State) (b : Buf) (ws : List Word) (c : Channel) (x : Chan) (w : Word) :
    storeForChannel s b ws c x w =
      State.setChan { s with mem := (storeForChannel s b ws c x w).mem, result := w } c x := by
  cases c <;> rfl

theorem readBuf_storeForChannel {s : State} {b : Buf} {ws : List Word} (h : ws.length = bufLen s.build b)
    (c : Channel) (x : Chan) (w : Word) : readBuf (storeForChannel s b ws c x w) b = ws := by
  rw [storeForChannel, readBuf_setResult, readBuf_setChan, readBuf_writeBuf_same h]

theorem readByte_storeForChannel {s : State} {b : Buf} {ws : List Word} (h : ws.length = bufLen s.build b)
    (c : Channel) (x : Chan) (w : Word) {a : Nat} (ha : a < bufBase b ∨ bufBase b + 4 * bufLen s.build b ≤ a) :
    readByte (storeForChannel s b ws c x w).mem a = readByte s.mem a := by
  rw [storeForChannel, State.setResult_mem, State.setChan_mem]
  exact readByte_writeWords_outside s.mem (bufBase b) ws a (by rwa [h])

/-! ### INGEST -/

theorem shiftIn_nil (rw : List Word) : shiftIn rw [] = rw := by simp [shiftIn]

/-- A block no longer than the window stands at its end (43_spectral_analyzer.md R234). -/
theorem shiftIn_of_le {rw block : List Word} (h : block.length ≤ rw.length) :
    shiftIn rw block = rw.drop block.length ++ block := List.drop_append_of_le_length h

/-- Two blocks one after the other shift the window as the one block they make up (43_spectral_analyzer.md R238). -/
theorem shiftIn_shiftIn (rw b1 b2 : List Word) : shiftIn (shiftIn rw b1) b2 = shiftIn rw (b1 ++ b2) := by
  have hle : b1.length ≤ (rw ++ b1).length := by simp
  rw [shiftIn, shiftIn, ← List.drop_append_of_le_length hle, List.drop_drop, List.append_assoc, shiftIn,
    List.length_append]

/-- Samples that fill the window leave nothing of what it held. -/
theorem shiftIn_of_ge {rw block : List Word} (h : rw.length ≤ block.length) :
    shiftIn rw block = block.drop (block.length - rw.length) := by
  rw [shiftIn, List.drop_append, List.drop_of_length_le h, List.nil_append]

theorem ingestBlock_eq (s : State) (c : Channel) {l : Nat} (h : l ≠ 0) :
    ingestBlock s c l = storeForChannel s (.rw c) (shiftIn (readBuf s (.rw c)) ((readBuf s (.sb c)).take l)) c
      { State.chan s c with fresh := true } (BitVec.ofNat 32 l) := if_neg h

theorem shiftIn_readBuf_length (s : State) (c : Channel) (block : List Word) :
    (shiftIn (readBuf s (.rw c)) block).length = bufLen s.build (.rw c) := by
  rw [shiftIn_length, readBuf_length]

/-- The window after an accepted INGEST; an empty block leaves it as it was (43_spectral_analyzer.md R234). -/
theorem readBuf_ingestBlock (s : State) (c : Channel) (l : Nat) :
    readBuf (ingestBlock s c l) (.rw c) = shiftIn (readBuf s (.rw c)) ((readBuf s (.sb c)).take l) := by
  by_cases hl : l = 0
  · rw [hl, List.take_zero, shiftIn_nil]; rfl
  · rw [ingestBlock_eq s c hl, readBuf_storeForChannel (shiftIn_readBuf_length s c _)]

/-- INGEST names its channel; the length check is left (43_spectral_analyzer.md R234). -/
theorem exec_ingest (s : State) (c : Channel) (l : Nat) :
    exec (.ingest (channelIndex c) l) s = .next (classD s (l ≤ Build.n s.build) .badLength l (Build.n s.build)
      fun l t => ingestBlock t c l) := congrArg Host.Outcome.next (withChannel_index s c _)

theorem exec_ingest_legal {s : State} (c : Channel) {l : Nat} (h : l ≤ Build.n s.build) :
    exec (.ingest (channelIndex c) l) s = .next (ingestBlock s c l) :=
  (exec_ingest s c l).trans (congrArg Host.Outcome.next (if_pos (decide_eq_true h)))

theorem exec_ingest_strict {s : State} (c : Channel) {l : Nat} (h : Build.n s.build < l)
    (hs : s.ctrl.getLsbD 0 = true) : exec (.ingest (channelIndex c) l) s = .next (State.reject s .badLength) :=
  (exec_ingest s c l).trans
    (congrArg Host.Outcome.next (classD_strict _ _ _ _ (decide_eq_false (not_le.2 h)) hs))

/-- A length past `N` under STRICT = 0: the clamp is recorded, and the command is INGEST of `N` samples
(40_command_execution.md R143). -/
theorem exec_ingest_lenient {s : State} (c : Channel) {l : Nat} (h : Build.n s.build < l)
    (hs : s.ctrl.getLsbD 0 = false) : exec (.ingest (channelIndex c) l) s =
      exec (.ingest (channelIndex c) (Build.n s.build)) (State.recordClamp s .badLength) := by
  rw [exec_ingest, classD_lenient _ _ _ _ (decide_eq_false (not_le.2 h)) hs]
  exact (exec_ingest_legal c (le_refl (Build.n (State.recordClamp s .badLength).build))).symm

/-- A block staged and ingested is shifted into the window (70_reset_and_hazards.md R303). -/
theorem ingest_staged {s : State} (hlegal : Build.legal s.build = true) (c : Channel) {block : List Word}
    (h : block.length ≤ Build.n s.build) :
    ∃ u, exec (.ingest (channelIndex c) block.length) (State.writeBuf s (.sb c) block) = .next u ∧
      u.build = s.build ∧ readBuf u (.rw c) = shiftIn (readBuf s (.rw c)) block := by
  refine ⟨_, exec_ingest_legal c h, ingestBlock_build _ _ _, ?_⟩
  rw [readBuf_ingestBlock, take_readBuf_writeBuf h, readBuf_writeBuf_other (f := .sb c) (g := .rw c) hlegal nofun h]

/-- Blocks staged and ingested one after the other shift the window as the one block they make up
(43_spectral_analyzer.md R238). -/
theorem readBuf_ingestAll {s : State} (hlegal : Build.legal s.build = true) (c : Channel) {blocks : List (List Word)}
    (h : ∀ b ∈ blocks, b.length ≤ Build.n s.build) :
    ∃ t, ingestAll s c blocks = some t ∧ readBuf t (.rw c) = shiftIn (readBuf s (.rw c)) blocks.flatten := by
  induction blocks generalizing s with
  | nil => exact ⟨s, rfl, (shiftIn_nil _).symm⟩
  | cons block rest ih =>
    obtain ⟨hblock, hrest⟩ := List.forall_mem_cons.1 h
    obtain ⟨u, hu, hbuild, hwindow⟩ := ingest_staged hlegal c hblock
    obtain ⟨t, ht, hall⟩ := ih (hbuild ▸ hlegal) (hbuild ▸ hrest)
    refine ⟨t, ?_, ?_⟩
    · rw [ingestAll, hu]; exact ht
    · rw [hall, hwindow, shiftIn_shiftIn, List.flatten_cons]

/-! ### POP and CLEAR -/

theorem exec_pop (s : State) (c : Channel) : exec (.pop (channelIndex c)) s = .next (popFrame s c) :=
  congrArg Host.Outcome.next (withChannel_index s c _)

theorem popFrame_nil {s : State} {c : Channel} (h : (State.chan s c).fq = []) :
    popFrame s c = State.setResult s 0 := by
  rw [popFrame, h]

theorem popFrame_cons {s : State} {c : Channel} {f : Frame} {rest : List Frame} (h : (State.chan s c).fq = f :: rest) :
    popFrame s c = storeForChannel s (.fout c) f c { State.chan s c with fq := rest } 1 := by
  rw [popFrame, h]
  rfl

theorem exec_clear (s : State) (c : Channel) : exec (.clear (channelIndex c)) s = .next (clearChannel s c) :=
  congrArg Host.Outcome.next (withChannel_index s c _)

theorem clearChannel_eq (s : State) (c : Channel) :
    clearChannel s c =
      storeForChannel s (.rw c) (List.replicate (Build.n s.build) 0) c { fq := [], fresh := false, drop := 0 } 0 := rfl

end Sys2Proof.Machine

open Sys2Proof Sys2Proof.Machine

/-- Settles O31, by the three cases of the length check. -/
theorem ingestShiftsTheWindow : Obligations.IngestShiftsTheWindow := by
  intro s c
  refine ⟨exec_ingest_legal c (Nat.zero_le _), fun l hpos hle => ⟨_, exec_ingest_legal c hle, ?_⟩,
    fun l hlong => ⟨fun hs => ?_, fun hs => ?_⟩⟩
  · have hblock : ((readBuf s (.sb c)).take l).length = l := by
      rw [List.length_take, readBuf_length, bufLen_sb, min_eq_left hle]
    have hfits : ((readBuf s (.sb c)).take l).length ≤ (readBuf s (.rw c)).length := by
      rwa [hblock, readBuf_length, bufLen_rw]
    refine ⟨?_, ?_⟩
    · rw [readBuf_ingestBlock, shiftIn_of_le hfits, hblock]
    · rw [ingestBlock_eq s c (by omega)]
      exact ⟨fun a ha => readByte_storeForChannel (shiftIn_readBuf_length s c _) _ _ _ ha, storeForChannel_frame ..⟩
  · rw [exec_ingest_strict c hlong hs, reject_eq]
    rfl
  · rw [exec_ingest_lenient c hlong hs, recordClamp_eq]
    rfl

/-- Settles O32: the blocks shift the window as one block does. -/
theorem windowKeepsTheNewest : Obligations.WindowKeepsTheNewest := by
  intro s c blocks hlegal hle
  obtain ⟨t, ht, hwindow⟩ := readBuf_ingestAll hlegal c hle
  have hlen : (readBuf s (.rw c)).length = Build.n s.build := by rw [readBuf_length, bufLen_rw]
  refine ⟨t, ht, hwindow, fun hfull => ?_⟩
  rw [hwindow, shiftIn_of_ge (hlen.trans_le hfull), hlen]

/-- Settles O36, by the cases of the queue. -/
theorem popMovesTheHead : Obligations.PopMovesTheHead := by
  intro s c
  refine ⟨fun hempty => ?_, fun f rest hfq hlen => ⟨_, exec_pop s c, ?_⟩⟩
  · rw [exec_pop, popFrame_nil hempty]
    rfl
  · rw [popFrame_cons hfq]
    exact ⟨readBuf_storeForChannel hlen _ _ _, fun a ha => readByte_storeForChannel hlen _ _ _ ha,
      storeForChannel_frame ..⟩

/-- Settles O37: CLEAR stores a window of zero words and an empty channel. -/
theorem clearEmptiesOneChannel : Obligations.ClearEmptiesOneChannel := by
  intro s c
  have hlen : (List.replicate (Build.n s.build) (0 : Word)).length = bufLen s.build (.rw c) := List.length_replicate
  refine ⟨_, exec_clear s c, ?_⟩
  rw [clearChannel_eq]
  exact ⟨readBuf_storeForChannel hlen _ _ _, fun a ha => readByte_storeForChannel hlen _ _ _ ha,
    storeForChannel_frame ..⟩
end

section
/-! The analyzer's frames and queues: the frame of a window, PRODUCE, and queueing frame after frame
(43_spectral_analyzer.md R232, R233, R235, R238). -/

namespace Sys2Proof.Machine

/-! ### The frame of a window -/

theorem frameOf_of_nonfinite {s : State} {c : Channel} (h : ∃ v ∈ readBuf s (.rw c), isFinite v = false) :
    frameOf s c = (List.replicate (Build.nb s.build) s.floorDb, true) := by
  obtain ⟨v, hv, hfin⟩ := h
  exact if_neg fun hall => Bool.false_ne_true (hfin.symm.trans (List.all_eq_true.1 hall v hv))

theorem frameOf_of_finite {s : State} {c : Channel} (h : ∀ v ∈ readBuf s (.rw c), isFinite v = true) :
    frameOf s c = ((binMags s (readBuf s (.rw c))).map (binDb s.build.nx s.floorDb),
      (binMags s (readBuf s (.rw c))).any isInf) := if_pos (List.all_eq_true.2 h)

/-- A bin's magnitude as its decibels over the floor (00_scope.md R14; 43_spectral_analyzer.md R232). -/
theorem binDb_eq (nx : NxName) (fl m : Word) :
    binDb nx fl m = if isInf m then fl else if isNaN (nxDb nx m) || f32Lt (nxDb nx m) fl then fl else nxDb nx m := rfl

theorem getD_map_binMags (s : State) (x : List Word) (f : Word → Word) {k : Nat} (hk : k < Build.nb s.build) :
    ((binMags s x).map f).getD k 0 = f (nxBinMag s.build.nx x s.win k) := by
  rw [List.getD_eq_getElem _ _ (by simpa [binMags] using hk)]
  simp [binMags]

/-- A bin overflowed: what NONFINITE notes (43_spectral_analyzer.md R232). -/
theorem any_binMags_iff (s : State) (x : List Word) :
    (binMags s x).any isInf = true ↔ ∃ k < Build.nb s.build, isInf (nxBinMag s.build.nx x s.win k) = true := by
  simp [binMags, List.any_eq_true]

theorem f32Lt_self (v : Word) : f32Lt v v = false := f32Lt_of_key_le le_rfl

/-- A bin is not below a finite floor (00_scope.md R14). -/
theorem binDb_not_below {fl : Word} (h : isFinite fl = true) (nx : NxName) (m : Word) :
    f32Lt (binDb nx fl m) fl = false := by
  unfold binDb
  split
  · exact f32Lt_self fl
  · exact (clampFloor_not_below h).2

/-- No value of a frame is below a finite floor (43_spectral_analyzer.md R232). -/
theorem frameOf_not_below {s : State} (h : isFinite s.floorDb = true) (c : Channel) :
    ∀ v ∈ (frameOf s c).1, f32Lt v s.floorDb = false := by
  intro v hv
  by_cases hfin : ∀ v ∈ readBuf s (.rw c), isFinite v = true
  · rw [frameOf_of_finite hfin] at hv
    obtain ⟨m, -, rfl⟩ := List.mem_map.1 hv
    exact binDb_not_below h _ m
  · rw [frameOf_of_nonfinite (by simpa using hfin)] at hv
    rw [List.eq_of_mem_replicate hv]
    exact f32Lt_self _

/-! ### PRODUCE -/

theorem exec_produce (s : State) (c : Channel) : exec (.produce (channelIndex c)) s = .next (produceFrame s c) :=
  congrArg Host.Outcome.next (withChannel_index s c _)

theorem enqueue_full {s : State} {c : Channel} (h : (State.chan s c).fq.length = s.build.fqCap) (f : Frame) :
    enqueue s c f = State.setChan { s with status := s.status ||| flagMask (overflowFlag c) } c
      { State.chan s c with
        fq := (State.chan s c).fq.drop 1 ++ [f]
        drop := BitVec.ofNat 16 (min ((State.chan s c).drop.toNat + 1) 0xFFFF) } := by
  rw [enqueue, if_pos h]
  cases c <;> rfl

theorem enqueue_room {s : State} {c : Channel} (h : (State.chan s c).fq.length ≠ s.build.fqCap) (f : Frame) :
    enqueue s c f = State.setChan s c { State.chan s c with fq := (State.chan s c).fq ++ [f] } := if_neg h

/-- The end of PRODUCE, after its frame is queued: FRESH cleared and RESULT 1. -/
theorem finishProduce_setChan (s : State) (c : Channel) (x : Chan) :
    State.setResult (clearFresh (State.setChan s c x) c) 1 =
      State.setChan { s with result := 1 } c { x with fresh := false } := by
  cases c <;> rfl

theorem produceFrame_stale {s : State} {c : Channel} (h : (State.chan s c).fresh = false) :
    produceFrame s c = State.setResult s 0 := if_neg (by rw [h]; exact Bool.false_ne_true)

theorem produceFrame_fresh {s : State} {c : Channel} (h : (State.chan s c).fresh = true) :
    produceFrame s c = State.setResult
      (clearFresh (enqueue (State.noteNonFinite s (frameOf s c).2) c (frameOf s c).1) c) 1 := if_pos h

theorem produceFrame_full {s : State} {c : Channel} (h : (State.chan s c).fresh = true)
    (hfull : (State.chan s c).fq.length = s.build.fqCap) :
    produceFrame s c = State.setChan
      { State.noteNonFinite s (frameOf s c).2 with
        result := 1
        status := (State.noteNonFinite s (frameOf s c).2).status ||| flagMask (overflowFlag c) } c
      { fq := (State.chan s c).fq.drop 1 ++ [(frameOf s c).1], fresh := false,
        drop := BitVec.ofNat 16 (min ((State.chan s c).drop.toNat + 1) 0xFFFF) } := by
  rw [produceFrame_fresh h, enqueue_full (by simpa using hfull), finishProduce_setChan, State.chan_noteNonFinite]

theorem produceFrame_room {s : State} {c : Channel} (h : (State.chan s c).fresh = true)
    (hroom : (State.chan s c).fq.length ≠ s.build.fqCap) :
    produceFrame s c = State.setChan { State.noteNonFinite s (frameOf s c).2 with result := 1 } c
      { fq := (State.chan s c).fq ++ [(frameOf s c).1], fresh := false, drop := (State.chan s c).drop } := by
  rw [produceFrame_fresh h, enqueue_room (by simpa using hroom), finishProduce_setChan, State.chan_noteNonFinite]

/-! ### Frame after frame -/

/-- Frames `fs` were queued on channel `c` from `s` to `t`, and the oldest `lost` frames dropped and counted
(43_spectral_analyzer.md R233, R238). -/
structure Queued (c : Channel) (fs : List Frame) (lost : Nat) (s t : State) : Prop where
  fq : (State.chan t c).fq = ((State.chan s c).fq ++ fs).drop lost
  drop : (State.chan t c).drop.toNat = min ((State.chan s c).drop.toNat + lost) 0xFFFF
  fresh : (State.chan t c).fresh = (State.chan s c).fresh
  status : t.status = if 0 < lost then s.status ||| flagMask (overflowFlag c) else s.status

theorem Queued.refl (c : Channel) (s : State) : Queued c [] 0 s s where
  fq := by simp
  drop := by omega
  fresh := rfl
  status := rfl

/-- Frames queued behind other frames; the first ones drop none that are not there. -/
theorem Queued.trans {c : Channel} {fs gs : List Frame} {m n : Nat} {s t u : State} (h : Queued c fs m s t)
    (h' : Queued c gs n t u) (hm : m ≤ (State.chan s c).fq.length + fs.length) :
    Queued c (fs ++ gs) (m + n) s u where
  fq := by
    have hle : m ≤ ((State.chan s c).fq ++ fs).length := by rwa [List.length_append]
    rw [h'.fq, h.fq, ← List.drop_append_of_le_length hle, List.drop_drop, List.append_assoc]
  drop := by rw [h'.drop, h.drop]; omega
  fresh := h'.fresh.trans h.fresh
  status := by
    rw [h'.status, h.status]
    by_cases h1 : 0 < m <;> by_cases h2 : 0 < n <;> simp [h1, h2, or_or_self]

theorem enqueue_queued_full {s : State} {c : Channel} (h : (State.chan s c).fq.length = s.build.fqCap)
    (hpos : 1 ≤ s.build.fqCap) (f : Frame) : Queued c [f] 1 s (enqueue s c f) := by
  have hdrop := (State.chan s c).drop.isLt
  rw [enqueue_full h]
  exact {
    fq := by rw [State.chan_setChan_self, List.drop_append_of_le_length (by omega)]
    drop := by rw [State.chan_setChan_self, BitVec.toNat_ofNat]; omega
    fresh := by rw [State.chan_setChan_self]
    status := State.setChan_status _ _ _ }

theorem enqueue_queued_room {s : State} {c : Channel} (h : (State.chan s c).fq.length ≠ s.build.fqCap) (f : Frame) :
    Queued c [f] 0 s (enqueue s c f) := by
  have hdrop := (State.chan s c).drop.isLt
  rw [enqueue_room h]
  exact {
    fq := by rw [State.chan_setChan_self, List.drop_zero]
    drop := by rw [State.chan_setChan_self]; exact (min_eq_left (by omega)).symm
    fresh := by rw [State.chan_setChan_self]
    status := State.setChan_status _ _ _ }

/-- One frame more drops one exactly when the queue is full; either way the queue stays within `FQ_CAP`. -/
theorem enqueue_queued {s : State} {c : Channel} (hpos : 1 ≤ s.build.fqCap)
    (hlen : (State.chan s c).fq.length ≤ s.build.fqCap) (f : Frame) :
    Queued c [f] ((State.chan s c).fq.length + 1 - s.build.fqCap) s (enqueue s c f) := by
  by_cases h : (State.chan s c).fq.length = s.build.fqCap
  · rw [h, Nat.add_sub_cancel_left]
    exact enqueue_queued_full h hpos f
  · rw [show (State.chan s c).fq.length + 1 - s.build.fqCap = 0 by omega]
    exact enqueue_queued_room h f

/-- Queueing frames one after the other loses exactly those that `FQ_CAP` leaves no room for, the oldest
(43_spectral_analyzer.md R233, R238). -/
theorem foldl_enqueue_queued {s : State} {c : Channel} (hpos : 1 ≤ s.build.fqCap)
    (hlen : (State.chan s c).fq.length ≤ s.build.fqCap) (fs : List Frame) :
    Queued c fs ((State.chan s c).fq.length + fs.length - s.build.fqCap) s (fs.foldl (fun u f => enqueue u c f) s) := by
  induction fs generalizing s with
  | nil =>
    rw [List.length_nil, show (State.chan s c).fq.length + 0 - s.build.fqCap = 0 by omega]
    exact Queued.refl c s
  | cons f fs ih =>
    have hone := enqueue_queued hpos hlen f
    have hqueue : (State.chan (enqueue s c f) c).fq.length =
        (State.chan s c).fq.length + 1 - ((State.chan s c).fq.length + 1 - s.build.fqCap) := by
      rw [hone.fq, List.length_drop, List.length_append, List.length_singleton]
    have hrest := ih (s := enqueue s c f) (by rwa [enqueue_build]) (by rw [enqueue_build]; omega)
    rw [enqueue_build] at hrest
    have hall := hone.trans hrest (by rw [List.length_singleton]; omega)
    rwa [show (State.chan s c).fq.length + 1 - s.build.fqCap +
        ((State.chan (enqueue s c f) c).fq.length + fs.length - s.build.fqCap) =
        (State.chan s c).fq.length + (f :: fs).length - s.build.fqCap by rw [List.length_cons]; omega] at hall

end Sys2Proof.Machine

open Sys2Proof Sys2Proof.Machine

/-- Settles O33: the window holds a value that is not finite, or its bins are made one by one. -/
theorem frameOfTheWindow : Obligations.FrameOfTheWindow := by
  intro s c
  refine ⟨frameOf_length s c, frameOf_of_nonfinite, fun hfin => ⟨fun k hk => ?_, ?_⟩,
    fun hfloor v hv => ⟨(frameOf_ok s c hfloor).2 v hv, frameOf_not_below hfloor c v hv⟩⟩
  · rw [frameOf_of_finite hfin]
    exact (getD_map_binMags s _ _ hk).trans (binDb_eq _ _ _)
  · rw [frameOf_of_finite hfin]
    exact any_binMags_iff s _

/-- Settles O34: a stale channel, a full queue, and a queue with room. -/
theorem produceQueuesOneFrame : Obligations.ProduceQueuesOneFrame := by
  intro s c
  refine ⟨fun hstale => ?_, fun hfresh => ⟨fun hfull => ?_, fun hroom => ?_⟩⟩
  · rw [exec_produce, produceFrame_stale hstale]
    rfl
  · rw [exec_produce, produceFrame_full hfresh hfull, noteNonFinite_eq]
    cases c with
    | c0 => rw [overflowFlag, flagMask_ovf0]
    | c1 => rw [overflowFlag, flagMask_ovf1]
  · rw [exec_produce, produceFrame_room hfresh hroom, noteNonFinite_eq]

/-- Settles O35, by induction over the frames. -/
theorem queueKeepsTheNewestFrames : Obligations.QueueKeepsTheNewestFrames := by
  intro s c fs hpos hlen
  obtain ⟨hfq, hdrop, hfresh, hstatus⟩ := foldl_enqueue_queued hpos hlen fs
  refine ⟨hfq, hdrop, hfresh, hstatus.trans ?_⟩
  cases c with
  | c0 => rw [overflowFlag, flagMask_ovf0]
  | c1 => rw [overflowFlag, flagMask_ovf1]
end

section
/-! A channel's commands act on that channel alone (43_spectral_analyzer.md R234 to R237). -/

namespace Sys2Proof.Machine

/-- `t` holds what `s` holds in everything that a command on channel `c` has no part in: the other channel's queue,
freshness and drops, every buffer but the window and FOUT of `c`, and the chain. -/
structure OnlyChannel (c : Channel) (s t : State) : Prop where
  build : t.build = s.build
  chan : ∀ d, d ≠ c → State.chan t d = State.chan s d
  buf : ∀ b, b ≠ .rw c → b ≠ .fout c → readBuf t b = readBuf s b
  coef : t.coef = s.coef
  bypass : t.bypass = s.bypass

theorem OnlyChannel.refl (c : Channel) (s : State) : OnlyChannel c s s := by constructor <;> intros <;> rfl

section
variable {c : Channel} {s t : State} (h : OnlyChannel c s t)
include h

theorem OnlyChannel.setResult (w : Word) : OnlyChannel c s (State.setResult t w) :=
  { h with chan := fun d hd => (State.chan_setResult t w d).trans (h.chan d hd) }

theorem OnlyChannel.setStatus (w : Word) : OnlyChannel c s (State.setStatus t w) :=
  { h with chan := fun d hd => (State.chan_setStatus t w d).trans (h.chan d hd) }

theorem OnlyChannel.setErrcode (b : Byte) : OnlyChannel c s (State.setErrcode t b) :=
  { h with chan := fun d hd => Eq.trans (by cases d <;> rfl) (h.chan d hd) }

theorem OnlyChannel.setFlag (f : Flag) : OnlyChannel c s (State.setFlag t f) := h.setStatus _

theorem OnlyChannel.reject (e : ErrCode) : OnlyChannel c s (State.reject t e) := (h.setFlag .err).setErrcode _

theorem OnlyChannel.recordClamp (e : ErrCode) : OnlyChannel c s (State.recordClamp t e) :=
  (h.setFlag .clamped).setErrcode _

theorem OnlyChannel.noteNonFinite (met : Bool) : OnlyChannel c s (State.noteNonFinite t met) := by
  cases met
  · exact h
  · exact h.setFlag .nonfinite

theorem OnlyChannel.setChan (x : Chan) : OnlyChannel c s (State.setChan t c x) where
  build := (State.setChan_build t c x).trans h.build
  chan d hd := (State.chan_setChan_other t c d x hd).trans (h.chan d hd)
  buf b hrw hfout := (readBuf_setChan t c x b).trans (h.buf b hrw hfout)
  coef := (State.setChan_coef t c x).trans h.coef
  bypass := (State.setChan_bypass t c x).trans h.bypass

/-- A store into the window or FOUT of the channel leaves the other buffers as they are. -/
theorem OnlyChannel.writeBuf (hlegal : Build.legal s.build = true) {f : Buf} (hf : f = .rw c ∨ f = .fout c)
    {ws : List Word} (hlen : ws.length ≤ bufLen t.build f) : OnlyChannel c s (State.writeBuf t f ws) :=
  { h with
    chan := fun d hd => (State.chan_writeBuf t f ws d).trans (h.chan d hd)
    buf := fun b hrw hfout => by
      have hne : b ≠ f := by
        rcases hf with rfl | rfl
        · exact hrw
        · exact hfout
      exact (readBuf_writeBuf_other (h.build ▸ hlegal) hne hlen).trans (h.buf b hrw hfout) }

theorem OnlyChannel.storeForChannel (hlegal : Build.legal s.build = true) {f : Buf} (hf : f = .rw c ∨ f = .fout c)
    {ws : List Word} (hlen : ws.length ≤ bufLen t.build f) (x : Chan) (w : Word) :
    OnlyChannel c s (storeForChannel t f ws c x w) :=
  ((h.writeBuf hlegal hf hlen).setChan x).setResult w

theorem OnlyChannel.ingestBlock (hlegal : Build.legal s.build = true) (l : Nat) :
    OnlyChannel c s (ingestBlock t c l) := by
  by_cases hl : l = 0
  · rw [hl]; exact h.setResult 0
  · rw [ingestBlock_eq t c hl]
    exact h.storeForChannel hlegal (.inl rfl) (shiftIn_readBuf_length t c _).le _ _

theorem OnlyChannel.enqueue (f : Frame) : OnlyChannel c s (enqueue t c f) := by
  rcases enqueue_cases t c f with ⟨-, heq⟩ | ⟨-, heq⟩ <;> rw [heq]
  · exact (h.setChan _).setFlag _
  · exact h.setChan _

theorem OnlyChannel.produceFrame : OnlyChannel c s (produceFrame t c) := by
  cases hfresh : (State.chan t c).fresh with
  | false => rw [produceFrame_stale hfresh]; exact h.setResult 0
  | true => rw [produceFrame_fresh hfresh]; exact (((h.noteNonFinite _).enqueue _).setChan _).setResult 1

/-- POP stores a head of `NB` values, which the invariant makes of every head (43_spectral_analyzer.md R238). -/
theorem OnlyChannel.popFrame (hlegal : Build.legal s.build = true)
    (hhead : ∀ f ∈ (State.chan t c).fq, FrameOk t.build f) : OnlyChannel c s (popFrame t c) := by
  cases hfq : (State.chan t c).fq with
  | nil => rw [popFrame_nil hfq]; exact h.setResult 0
  | cons f rest =>
    rw [popFrame_cons hfq]
    have hok : FrameOk t.build f := hhead f (hfq ▸ List.mem_cons_self ..)
    exact h.storeForChannel hlegal (.inr rfl) hok.1.le _ _

theorem OnlyChannel.clearChannel (hlegal : Build.legal s.build = true) : OnlyChannel c s (clearChannel t c) :=
  h.storeForChannel hlegal (.inl rfl) (List.length_replicate ..).le _ _

end

/-- The commands on a channel (43_spectral_analyzer.md R234 to R237) leave what is not the channel's as it is. -/
theorem exec_onlyChannel {s t : State} {c : Channel} {i : Instr} (hinv : Inv s)
    (hi : i = .produce (channelIndex c) ∨ i = .pop (channelIndex c) ∨ i = .clear (channelIndex c) ∨
      ∃ l, i = .ingest (channelIndex c) l) (ht : exec i s = .next t) : OnlyChannel c s t := by
  have h := OnlyChannel.refl c s
  rcases hi with rfl | rfl | rfl | ⟨l, rfl⟩
  · rw [exec_produce] at ht; cases ht
    exact h.produceFrame
  · rw [exec_pop] at ht; cases ht
    exact h.popFrame hinv.build (hinv.chan c).2
  · rw [exec_clear] at ht; cases ht
    exact h.clearChannel hinv.build
  · rw [exec_ingest] at ht; cases ht
    exact classD_keeps h (h.reject _) (h.recordClamp _) fun z u hu => hu.ingestBlock hinv.build z

end Sys2Proof.Machine

open Sys2Proof Sys2Proof.Machine

/-- Settles O38: the commands of channel `c` leave everything of channel `d`, RESP and the chain. -/
theorem channelsAreIndependent : Obligations.ChannelsAreIndependent := by
  intro s t c d i hinv hne hi ht
  obtain ⟨-, hchan, hbuf, hcoef, hbypass⟩ := exec_onlyChannel hinv hi ht
  have hrw : Buf.rw d ≠ .rw c := by simpa using hne.symm
  have hfout : Buf.fout d ≠ .fout c := by simpa using hne.symm
  exact ⟨hchan d hne.symm, hbuf _ nofun nofun, hbuf _ hrw nofun, hbuf _ nofun hfout, hbuf _ nofun nofun, hcoef, hbypass⟩
end

section
/-! The model's bound on the bin magnitudes (43_spectral_analyzer.md R230, R231; log 9): no window of R230 is above 1
before it is scaled, and the sums of the windows have a closed form. -/

namespace Sys2Proof.Ideal
open Sys2Proof.Machine

/-! ### The sum of a raw window -/

/-- The harmonics of a window's cosine, below its length less one, sum to 0 over one period. -/
theorem sum_cos_period {j m : ℕ} (hj : 0 < j) (hjm : j < m) :
    ∑ n ∈ Finset.range m, Real.cos (j * (2 * Real.pi * n / m)) = 0 := by
  have hroot := Complex.isPrimitiveRoot_exp m (by omega)
  set z := Complex.exp (2 * Real.pi * Complex.I / m)
  have hcos : ∀ n : ℕ, Real.cos (j * (2 * Real.pi * n / m)) = ((z ^ j) ^ n).re := fun n => by
    rw [← Complex.exp_ofReal_mul_I_re, ← pow_mul, ← Complex.exp_nat_mul]
    congr 2
    push_cast
    ring
  have hone : (z ^ j) ^ m = 1 := by rw [← pow_mul, mul_comm, pow_mul, hroot.pow_eq_one, one_pow]
  have hne : z ^ j ≠ 1 := hroot.pow_ne_one_of_pos_of_lt hj.ne' hjm
  rw [Finset.sum_congr rfl fun n _ => hcos n, ← Complex.re_sum, geom_sum_eq hne, hone, sub_self, zero_div,
    Complex.zero_re]

/-- A window spans its period with both ends, so that one sample is left over, where the cosine is 1. -/
theorem sum_cos_window {j m : ℕ} (hj : 0 < j) (hjm : j < m) :
    ∑ n ∈ Finset.range (m + 1), Real.cos (j * (2 * Real.pi * n / m)) = 1 := by
  have hm : (m : ℝ) ≠ 0 := by exact_mod_cast (by omega : m ≠ 0)
  rw [Finset.sum_range_succ, sum_cos_period hj hjm, zero_add, mul_div_cancel_right₀ _ hm, Real.cos_nat_mul_two_pi]

/-- The closed form of `Σ u_k` (43_spectral_analyzer.md R230). -/
theorem sum_rawWindow {win len : ℕ} (hwin : win ≤ 2) (hlen : 4 < len) :
    (∑ k ∈ Finset.range len, rawWindow win len k) * windowSumScale win = windowSumScaled win len := by
  obtain ⟨m, rfl⟩ : ∃ m, len = m + 1 := ⟨len - 1, by omega⟩
  have h1 := sum_cos_window (j := 1) (m := m) (by omega) (by omega)
  have h2 := sum_cos_window (j := 2) (m := m) (by omega) (by omega)
  have h3 := sum_cos_window (j := 3) (m := m) (by omega) (by omega)
  simp only [Nat.cast_one, one_mul, Nat.cast_ofNat] at h1 h2 h3
  have hperiod : ((m + 1 : ℕ) : ℝ) - 1 = m := by push_cast; ring
  interval_cases win
  · simp [rawWindow, windowSumScale, windowSumScaled]
  · simp only [rawWindow, hperiod, windowSumScale, windowSumScaled, one_ne_zero, if_false, if_true,
      Finset.sum_sub_distrib, ← Finset.mul_sum, h1, Finset.sum_const, Finset.card_range, nsmul_eq_mul]
    push_cast
    ring
  · have hsub : ((35875 * (m + 1) - 35869 : ℕ) : ℝ) = 35875 * (m + 1) - 35869 := by
      rw [Nat.cast_sub (by omega)]; push_cast; ring
    simp only [rawWindow, hperiod, windowSumScale, windowSumScaled, OfNat.ofNat_ne_zero, OfNat.ofNat_ne_one, if_false,
      Finset.sum_sub_distrib, Finset.sum_add_distrib, ← Finset.mul_sum, h1, h2, h3, Finset.sum_const, Finset.card_range,
      nsmul_eq_mul, hsub]
    push_cast
    ring

theorem rawWindow_le_one (win len n : ℕ) : rawWindow win len n ≤ 1 := by
  unfold rawWindow
  simp only
  set t : ℝ := 2 * Real.pi * n / ((len : ℝ) - 1)
  have h1 := Real.neg_one_le_cos t
  have h2 := Real.cos_le_one (2 * t)
  have h3 := Real.neg_one_le_cos (3 * t)
  split_ifs
  · exact le_rfl
  · norm_num; linarith
  · norm_num; linarith

/-! ### The windowed sum -/

/-- `Σ |val(x_n)|` in the model's units. -/
theorem sum_abs_val (x : List Word) :
    ∑ n ∈ Finset.range x.length, |val (x.getD n 0)| = (sumAbsUnits x : ℝ) / 2 ^ 149 := by
  rw [sum_range_getD x fun v => |val v|]
  induction x with
  | nil => simp [sumAbsUnits]
  | cons v x ih =>
    rw [List.map_cons, List.sum_cons, ih, abs_val, magVal, ← add_div, sumAbsUnits, sumAbsUnits, List.map_cons,
      List.sum_cons, Nat.cast_add]

/-- No sample is scaled by more than `N / Σ u_k` (43_spectral_analyzer.md R230). -/
theorem window_le (win len n : ℕ) : window win len n ≤ len / ∑ k ∈ Finset.range len, rawWindow win len k := by
  have hsum : 0 ≤ ∑ k ∈ Finset.range len, rawWindow win len k := Finset.sum_nonneg fun k _ => rawWindow_nonneg win len k
  rw [window]
  gcongr
  exact mul_le_of_le_one_left (Nat.cast_nonneg len) (rawWindow_le_one win len n)

theorem windowedSum_le (x : List Word) (win : ℕ) :
    windowedSum x win ≤
      (sumAbsUnits x : ℝ) / 2 ^ 149 * (x.length / ∑ k ∈ Finset.range x.length, rawWindow win x.length k) := by
  rw [← sum_abs_val, Finset.sum_mul]
  exact Finset.sum_le_sum fun n _ => mul_le_mul_of_nonneg_left (window_le win x.length n) (abs_nonneg _)

/-- Where the model's test excludes an overflow, the ideal magnitude is below the threshold (43_spectral_analyzer.md
R231; log 9): `m_k ≤ 2·Σ|x_n| / Σ u_k`. -/
theorem binIdeal_lt_of_binCannotOverflow {x : List Word} {win : ℕ} (hwin : win ≤ 2) (hlen : 4 < x.length)
    (h : binCannotOverflow x win = true) (k : ℕ) : binIdeal x win k < overflowBound := by
  have hform := sum_rawWindow hwin hlen
  set S := ∑ k ∈ Finset.range x.length, rawWindow win x.length k
  have hN : (0 : ℝ) < x.length := by exact_mod_cast (by omega : 0 < x.length)
  have hscale : (0 : ℝ) < windowSumScale win := by unfold windowSumScale; split_ifs <;> norm_num
  have hscaled : (0 : ℝ) < windowSumScaled win x.length := by
    have : 0 < windowSumScaled win x.length := by unfold windowSumScaled; split_ifs <;> omega
    exact_mod_cast this
  have hprod : 0 < S * windowSumScale win := hscaled.trans_eq hform.symm
  have hS : 0 < S := pos_of_mul_pos_left hprod hscale.le
  have htest : 2 * (sumAbsUnits x : ℝ) * windowSumScale win < overflowUnits * windowSumScaled win x.length := by
    rw [binCannotOverflow, decide_eq_true_eq] at h
    exact_mod_cast h
  have hunits : 2 * (sumAbsUnits x : ℝ) < overflowUnits * S := by
    rw [← hform, ← mul_assoc] at htest
    exact lt_of_mul_lt_mul_right htest hscale.le
  calc binIdeal x win k
      ≤ 2 / x.length * windowedSum x win := binIdeal_le x win k
    _ ≤ 2 / x.length * ((sumAbsUnits x : ℝ) / 2 ^ 149 * (x.length / S)) := by gcongr; exact windowedSum_le x win
    _ = 2 * (sumAbsUnits x : ℝ) / S / 2 ^ 149 := by field_simp
    _ < overflowUnits / 2 ^ 149 := by gcongr; rwa [div_lt_iff₀ hS]
    _ = overflowBound := overflowBound_eq_units.symm

end Sys2Proof.Ideal

open Sys2Proof Sys2Proof.Machine

/-- Settles O54: the bound over all windows, the rectangular window's bin 0, and silence. -/
theorem binOverflowTestIsSound : Obligations.BinOverflowTestIsSound := by
  rintro x win k hwin ⟨m, hm, -, hlen⟩ - -
  have hlong : 4 < x.length := by
    rw [hlen]
    exact lt_of_lt_of_le (by norm_num) (Nat.pow_le_pow_right (by norm_num) hm : 2 ^ 3 ≤ 2 ^ m)
  refine ⟨fun h => Ideal.binIdeal_lt_of_binCannotOverflow hwin hlong h k, ?_,
    fun h => Ideal.binIdeal_of_silence h k⟩
  rintro rfl rfl
  exact Ideal.binZeroOverflows_iff (by omega)
end

section
/-! What stops a step (60_exceptions.md R276): no command and no served access does, so only an access made while reset
is held (log 5) or outside the window (log 6). -/

namespace Sys2Proof.Machine

/-! ### Served accesses -/

theorem issue_ne_stop (s : State) (v : Word) (r : Refusal) : issue s v ≠ .stop r := by
  unfold issue
  split <;> nofun

theorem busRead_ne_stop (s : State) (off size : Nat) (r : Refusal) : busRead s off size ≠ .stop r := by
  unfold busRead
  split <;> nofun

theorem busWrite_ne_stop (s : State) (off size : Nat) (v : Word) (r : Refusal) : busWrite s off size v ≠ .stop r := by
  unfold busWrite
  split
  · split
    · exact issue_ne_stop _ v r
    · nofun
  · nofun

/-! ### Refusals -/

theorem windowOffset_eq_none_iff (b : Build) (addr : Nat) :
    windowOffset b addr = none ↔ addr < b.srbBase ∨ b.srbBase + 0x1000000 ≤ addr := by
  unfold windowOffset windowSize
  split <;> simp only [reduceCtorEq, true_iff, false_iff] <;> omega

/-- `r` is the model's refusal of an access of the host to the platform address `addr`. -/
def AccessRefused (s : State) (addr : Nat) (r : Refusal) : Prop :=
  (s.host.resetHeld = true ∧ r = .accessDuringReset) ∨
  (s.host.resetHeld = false ∧ (addr < s.build.srbBase ∨ s.build.srbBase + 0x1000000 ≤ addr) ∧ r = .outsideWindow)

/-- An access that would be served at every offset is stopped before it reaches one. -/
theorem accessRefused_of_onWindow {s : State} {addr : Nat} {serve : Nat → HostAction} {r : Refusal}
    (hserve : ∀ off, serve off ≠ .stop r) (h : onWindow s addr serve = .stop r) : AccessRefused s addr r := by
  unfold onWindow at h
  split at h
  next hheld => cases h; exact .inl ⟨hheld, rfl⟩
  next hheld =>
    split at h
    next off _ => exact absurd h (hserve off)
    next hout => cases h; exact .inr ⟨by simpa using hheld, (windowOffset_eq_none_iff _ _).1 hout, rfl⟩

/-- Only the host's reads and writes are ever refused. -/
theorem accessRefused_of_stmtAction {s : State} {st : HostStmt} {r : Refusal} (h : stmtAction s st = .stop r) :
    ∃ addr size, (st = .read addr size ∨ ∃ v, st = .write addr size v) ∧ AccessRefused s addr r := by
  cases st with
  | write addr size v =>
    exact ⟨addr, size, .inr ⟨v, rfl⟩, accessRefused_of_onWindow (fun off => busWrite_ne_stop _ off size v r) h⟩
  | read addr size =>
    exact ⟨addr, size, .inl rfl, accessRefused_of_onWindow (fun off => busRead_ne_stop _ off size r) h⟩
  | bnz | bz | jmp | halt | assertReset | releaseReset => cases h

theorem accessRefused_of_hostAction {s : State} {r : Refusal} (h : hostAction s = .stop r) :
    ∃ addr size, (s.host.program[s.host.index]? = some (.read addr size) ∨
      ∃ v, s.host.program[s.host.index]? = some (.write addr size v)) ∧ AccessRefused s addr r := by
  unfold hostAction at h
  split at h
  next st hat => simpa only [hat, Option.some_inj] using accessRefused_of_stmtAction h
  next => cases h

end Sys2Proof.Machine

open Sys2Proof Sys2Proof.Machine

/-- Settles O11: a statement that is done and a command that runs give a next state; a stopped statement is an access. -/
theorem stepStopsOnlyOutsideTheSpec : Obligations.StepStopsOnlyOutsideTheSpec := by
  intro s
  rcases step_cases s with ⟨t, -, hs⟩ | ⟨i, u, -, hs⟩ | ⟨r, hact, hs⟩
  · exact .inl ⟨t, hs⟩
  · obtain ⟨t, ht⟩ := exec_next i u
    exact .inl ⟨t, hs.trans ht⟩
  · obtain ⟨addr, size, hat, ⟨hheld, rfl⟩ | ⟨hfree, hout, rfl⟩⟩ := accessRefused_of_hostAction hact
    · exact .inr ⟨addr, size, hat, .inl ⟨hheld, hs⟩⟩
    · exact .inr ⟨addr, size, hat, .inr ⟨hfree, hout, hs⟩⟩
end

section
/-! The events that a command can record (60_exceptions.md R272): the STATUS bits and the ERRCODE values of its row. -/

namespace Sys2Proof.Machine

/-- From `s` to `t` no STATUS bit outside `flags` was set, none was cleared, and ERRCODE was left or took one of
`codes`. -/
structure RecordsOnly (flags : Word) (codes : List Byte) (s t : State) : Prop where
  status : ∃ m, t.status = s.status ||| m ∧ m &&& ~~~flags = 0
  errcode : t.errcode = s.errcode ∨ t.errcode ∈ codes

theorem RecordsOnly.refl (flags : Word) (codes : List Byte) (s : State) : RecordsOnly flags codes s s :=
  ⟨⟨0, by simp, by simp⟩, .inl rfl⟩

section
variable {flags : Word} {codes : List Byte} {s t : State} (h : RecordsOnly flags codes s t)
include h

/-! ### Updates that record nothing -/

theorem RecordsOnly.setResult (w : Word) : RecordsOnly flags codes s (State.setResult t w) := { h with }

theorem RecordsOnly.writeBuf (b : Buf) (ws : List Word) : RecordsOnly flags codes s (State.writeBuf t b ws) :=
  { h with }

theorem RecordsOnly.setChan (c : Channel) (x : Chan) : RecordsOnly flags codes s (State.setChan t c x) := by
  cases c <;> exact { h with }

theorem RecordsOnly.designCut (base lo o : Nat) (f : Nat → Coefs) :
    RecordsOnly flags codes s (designCut t base lo o f) := { h with }

theorem RecordsOnly.ingestBlock (c : Channel) (l : Nat) : RecordsOnly flags codes s (ingestBlock t c l) := by
  unfold Machine.ingestBlock
  split
  · exact h.setResult 0
  · exact ((h.writeBuf _ _).setChan c _).setResult _

theorem RecordsOnly.popFrame (c : Channel) : RecordsOnly flags codes s (popFrame t c) := by
  unfold Machine.popFrame
  split
  · exact h.setResult 0
  · exact ((h.writeBuf _ _).setChan c _).setResult 1

theorem RecordsOnly.clearChannel (c : Channel) : RecordsOnly flags codes s (clearChannel t c) :=
  ((h.writeBuf _ _).setChan c _).setResult 0

/-! ### Updates that record -/

theorem RecordsOnly.setFlag {f : Flag} (hf : flagMask f &&& ~~~flags = 0) :
    RecordsOnly flags codes s (State.setFlag t f) := by
  obtain ⟨m, hm, hflags⟩ := h.status
  refine ⟨⟨m ||| flagMask f, ?_, ?_⟩, h.errcode⟩
  · rw [State.setFlag_status, statusSet, hm, BitVec.or_assoc]
  · rw [BitVec.and_comm, BitVec.and_or_distrib_left, BitVec.and_comm, hflags, BitVec.and_comm, hf, BitVec.or_self]

theorem RecordsOnly.setErrcode {b : Byte} (hb : b ∈ codes) : RecordsOnly flags codes s (State.setErrcode t b) :=
  ⟨h.status, .inr hb⟩

theorem RecordsOnly.reject {e : ErrCode} (hf : flagMask .err &&& ~~~flags = 0) (he : e.code ∈ codes) :
    RecordsOnly flags codes s (State.reject t e) := (h.setFlag hf).setErrcode he

theorem RecordsOnly.recordClamp {e : ErrCode} (hf : flagMask .clamped &&& ~~~flags = 0) (he : e.code ∈ codes) :
    RecordsOnly flags codes s (State.recordClamp t e) := (h.setFlag hf).setErrcode he

theorem RecordsOnly.noteNonFinite (hf : flagMask .nonfinite &&& ~~~flags = 0) (met : Bool) :
    RecordsOnly flags codes s (State.noteNonFinite t met) := by
  cases met
  · exact h
  · exact h.setFlag hf

theorem RecordsOnly.sweepColumns (hf : flagMask .nonfinite &&& ~~~flags = 0) (hi : Word) :
    RecordsOnly flags codes s (sweepColumns t hi) := ((h.writeBuf _ _).noteNonFinite hf _).setResult _

theorem RecordsOnly.enqueue {c : Channel} (hf : flagMask (overflowFlag c) &&& ~~~flags = 0) (f : Frame) :
    RecordsOnly flags codes s (enqueue t c f) := by
  rcases enqueue_cases t c f with ⟨-, heq⟩ | ⟨-, heq⟩ <;> rw [heq]
  · exact (h.setChan c _).setFlag hf
  · exact h.setChan c _

theorem RecordsOnly.produceFrame {c : Channel} (hnote : flagMask .nonfinite &&& ~~~flags = 0)
    (hovf : flagMask (overflowFlag c) &&& ~~~flags = 0) : RecordsOnly flags codes s (produceFrame t c) := by
  unfold Machine.produceFrame
  split
  · exact (((h.noteNonFinite hnote _).enqueue hovf _).setChan c _).setResult 1
  · exact h.setResult 0

/-- A class-(d) check records a rejection or a clamp (40_command_execution.md R143). -/
theorem RecordsOnly.classD {α : Type} {ok : Bool} {e : ErrCode} {x y : α} {go : α → State → State}
    (herr : flagMask .err &&& ~~~flags = 0) (hclamp : flagMask .clamped &&& ~~~flags = 0) (he : e.code ∈ codes)
    (hgo : ∀ z u, RecordsOnly flags codes s u → RecordsOnly flags codes s (go z u)) :
    RecordsOnly flags codes s (classD t ok e x y go) :=
  classD_keeps h (h.reject herr he) (h.recordClamp hclamp he) hgo

/-- A channel command records a rejection when CH names no channel (30_encoding.md R117). -/
theorem RecordsOnly.withChannel {ch : Nat} {go : Channel → State} (herr : flagMask .err &&& ~~~flags = 0)
    (he : ErrCode.badChannel.code ∈ codes) (hgo : ∀ c, ch = channelIndex c → RecordsOnly flags codes s (go c)) :
    RecordsOnly flags codes s (withChannel t ch go) := by
  rcases withChannel_cases t ch go with ⟨c, hc, heq⟩ | ⟨-, heq⟩ <;> rw [heq]
  · exact hgo c hc
  · exact h.reject herr he

end

/-! ### The rows of R272 -/

theorem err_recordable_of_produce (ch : Nat) : flagMask .err &&& ~~~recordableFlags (.produce ch) = 0 := by
  simp only [recordableFlags]
  split_ifs <;> decide

theorem nonfinite_recordable_of_produce (c : Channel) :
    flagMask .nonfinite &&& ~~~recordableFlags (.produce (channelIndex c)) = 0 := by cases c <;> decide

theorem overflow_recordable_of_produce (c : Channel) :
    flagMask (overflowFlag c) &&& ~~~recordableFlags (.produce (channelIndex c)) = 0 := by cases c <;> decide

/-- A cut design records a rejection or a clamp of its order and nothing else. -/
theorem classD_order_recordsOnly (s : State) (o : Nat) (base lo : Nat) (f : Nat → State → Nat → Coefs) :
    RecordsOnly 0x03 [0x05] s (classD s (orderLegal o) .badOrder o (orderClamp o) fun o t =>
      designCut t base lo o (f o t)) :=
  (RecordsOnly.refl 0x03 [0x05] s).classD (by decide) (by decide) (by decide) fun o _ hu => hu.designCut base lo o _

/-- Every command but RESET records only what its row of R272 allows. -/
theorem exec_recordsOnly {s t : State} {i : Instr} (hi : i ≠ .reset) (ht : exec i s = .next t) :
    RecordsOnly (recordableFlags i) (recordableCodes i) s t := by
  have h := RecordsOnly.refl (recordableFlags i) (recordableCodes i) s
  cases i with
  | nop => cases ht; exact h.setResult 0
  | reset => exact absurd rfl hi
  | chainReset | designPeak => cases ht; exact { h with }
  | designLowcut imm | designHighcut imm => cases ht; exact classD_order_recordsOnly s imm _ _ _
  | magAt =>
    rw [exec_magAt] at ht
    cases ht
    exact (h.noteNonFinite (by decide) _).setResult _
  | sweep =>
    cases ht
    exact h.classD (by decide) (by decide) (by decide) fun top _ hu => hu.sweepColumns (by decide) top
  | ingest ch imm =>
    cases ht
    have hrow : RecordsOnly 0x03 [0x03, 0x04] s s := h
    exact hrow.withChannel (by decide) (by decide) fun c _ =>
      hrow.classD (by decide) (by decide) (by decide) fun l _ hu => hu.ingestBlock c l
  | produce ch =>
    cases ht
    refine h.withChannel (err_recordable_of_produce ch) (List.mem_singleton.2 rfl) ?_
    rintro c rfl
    exact h.produceFrame (nonfinite_recordable_of_produce c) (overflow_recordable_of_produce c)
  | pop ch =>
    cases ht
    have hrow : RecordsOnly 0x01 [0x03] s s := h
    exact hrow.withChannel (by decide) (by decide) fun c _ => hrow.popFrame c
  | clear ch =>
    cases ht
    have hrow : RecordsOnly 0x01 [0x03] s s := h
    exact hrow.withChannel (by decide) (by decide) fun c _ => hrow.clearChannel c

end Sys2Proof.Machine

open Sys2Proof Sys2Proof.Machine

/-- Settles O41: the row of each command allows what the operations that it is made of record. -/
theorem commandsRecordOnlyTheirEvents : Obligations.CommandsRecordOnlyTheirEvents := by
  intro i s t hi ht
  obtain ⟨hstatus, herrcode⟩ := exec_recordsOnly hi ht
  exact ⟨hstatus, herrcode⟩
end

section
/-! The reset state of a legal build, element by element (70_reset_and_hazards.md R301). -/

namespace Sys2Proof.Machine

/-! ### The buffers -/

/-- A word of the memory with nothing listed (10_state.md R57, R58, R60, R61; 20_memory.md R83). -/
theorem readWord_nil {a : Nat} (ha : a % 4 = 0) :
    readWord [] a = if 0x300000 ≤ a ∧ a < 0x380000 then 0xC2400000 else 0 := by
  have hread : readWord [] a =
      wordOfLanes (initialByte (a + 0)) (initialByte (a + 1)) (initialByte (a + 2)) (initialByte (a + 3)) := rfl
  by_cases hfout : 0x300000 ≤ a ∧ a < 0x380000
  · have hlane : ∀ j < 4, initialByte (a + j) = if j = 3 then 0xC2 else if j = 2 then 0x40 else 0x00 := by
      intro j hj
      rw [initialByte, if_pos (by omega), show (a + j) % 4 = j by omega]
    rw [hread, hlane 0 (by decide), hlane 1 (by decide), hlane 2 (by decide), hlane 3 (by decide), if_pos hfout]
    decide
  · have hlane : ∀ j < 4, initialByte (a + j) = 0x00 := fun j hj => if_neg (by omega)
    rw [hread, hlane 0 (by decide), hlane 1 (by decide), hlane 2 (by decide), hlane 3 (by decide), if_neg hfout]
    decide

/-- The value of every word of a buffer after a reset (70_reset_and_hazards.md R301). -/
def bufResetWord : Buf → Word
  | .sb _ | .rw _ | .resp => 0
  | .fout _ => 0xC2400000

theorem loadLoc_buf_resetOf {b : Build} (h : Build.legal b = true) {f : Buf} {i : Nat} (hi : i < bufLen b f) :
    loadLoc (State.resetOf b) (.buf f i) = bufResetWord f := by
  have hlen := bufLen_le h f
  have halign := (bufAt_bufBase f).2
  have hload : loadLoc (State.resetOf b) (.buf f i) = readWord [] (bufBase f + 4 * i) := if_pos hi
  rw [hload, readWord_nil (by omega)]
  cases f with
  | sb c | rw c => cases c <;> exact if_neg (by simp only [bufBase, channelIndex]; omega)
  | fout c => cases c <;> exact if_pos (by simp only [bufBase, channelIndex]; omega)
  | resp => exact if_neg (by simp only [bufBase]; omega)

/-! ### The registers, the coefficients and the channels -/

/-- A ratio of two numbers of units is rounded as the ratio of the numbers. -/
theorem rne32_units (num : Int) {den : Nat} (hd : 0 < den) :
    rne32 (num * unitsPerOne) (unitsPerOne * den) = rne32 num den := by
  have hunit : 0 < unitsPerOne := by unfold unitsPerOne; positivity
  rw [Ideal.machine_rne32_eq _ (Nat.mul_pos hunit hd), Ideal.machine_rne32_eq _ hd]
  congr 1
  push_cast
  rw [mul_comm (num : ℝ), mul_div_mul_left _ _ (by exact_mod_cast hunit.ne')]

/-- BIN_WIDTH after a reset is that of the rate 44100 (10_state.md R53). -/
theorem binWidth_resetOf (b : Build) : regRead (State.resetOf b) .binWidth = rne32 44100 (2 ^ b.k) := by
  have hrate : valUnits 0x472C4400 = 44100 * unitsPerOne := by decide
  calc regRead (State.resetOf b) .binWidth = rne32 (valUnits 0x472C4400) (unitsPerOne * 2 ^ b.k) := rfl
    _ = rne32 44100 (2 ^ b.k) := by rw [hrate, rne32_units _ (by positivity)]

theorem coef_resetOf (b : Build) (i : Fin 9) : (State.resetOf b).coef[i] = identityCoefs := by simp [State.resetOf]

theorem chan_resetOf (b : Build) (c : Channel) : State.chan (State.resetOf b) c = Chan.reset := by cases c <;> rfl

end Sys2Proof.Machine

open Sys2Proof Sys2Proof.Machine

/-- Settles O13: the reference build is legal too. -/
theorem resetHasInvariant : Obligations.ResetHasInvariant :=
  ⟨fun _ hlegal => inv_resetOf hlegal, inv_resetOf (by decide)⟩

/-- Settles O15: most registers are read off the reset state; CFG, BIN_WIDTH and the buffers follow from the build. -/
theorem resetStateValues : Obligations.ResetStateValues := by
  intro b hlegal
  refine ⟨rfl, rfl, cfgWord_legal hlegal, rfl, rfl, rfl, rfl, rfl, rfl, rfl, rfl, rfl, rfl, rfl, rfl, rfl, rfl, rfl, rfl,
    binWidth_resetOf b, coef_resetOf b, fun c => ?_, fun i hi => loadLoc_buf_resetOf hlegal hi⟩
  refine ⟨?fq, ?fresh, ?drop, fun i hi => ⟨loadLoc_buf_resetOf hlegal hi, loadLoc_buf_resetOf hlegal hi⟩,
    fun i hi => loadLoc_buf_resetOf hlegal hi⟩
  all_goals rw [chan_resetOf]; rfl
end
